-- ==== Sys2Proof/Word.lean ====
section
/-! DEFINITION. The two widths of 00_scope.md R7 on which the types of the model rest, `DATA_WIDTH` and `ADDR_WIDTH`, and
the word types of the BCE they give. The other parameters of R7 are in Config. -/

namespace Sys2Proof

/-- `DATA_WIDTH`: the bits of the host bus data and of every register (R7). -/
abbrev Config.dataWidth : Nat := 32
/-- `ADDR_WIDTH`: the bits of a host byte address, a window of 1 MiB (R7, R50). -/
abbrev Config.addrWidth : Nat := 20

/-- A register, a command word, an event word or the data of a host transaction (R7, `DATA_WIDTH`). -/
abbrev Word := BitVec Config.dataWidth

/-- A byte address of the host port, relative to `BCE_BASE` (R7 `ADDR_WIDTH`, R50, R62). -/
abbrev HostAddr := BitVec Config.addrWidth

end Sys2Proof
end

