-- ==== Sys2Proof/Machine/RomContents.lean ====
section
/-! DEFINITION. The default contents of the two ROMs that are parameters (00_scope.md R7): PDF_EC_COEFF
(42_ecc.md R121) and RM_TABLE (41_checksum.md R104). Config names them as the parameters the commands read. -/

namespace Sys2Proof.Machine

/-- The product of a polynomial, lowest coefficient first, and (x − root), modulo `p`. -/
def mulRootMod (p root : Nat) (g : List Nat) : List Nat :=
  List.zipWith (fun a b => (a + b) % p) (0 :: g) (g.map (fun a => a * (p - root) % p) ++ [0])

/-- The product of (x − base^i) over the next `n` values of i, where `root` is base^i of the first, times `g`,
modulo `p` (R121). -/
def powerProduct (p base : Nat) : Nat → Nat → List Nat → List Nat
  | 0, _, g => g
  | n + 1, root, g => powerProduct p base n (root * base % p) (mulRootMod p root g)

/-- The coefficients of x^0 to x^(k−1) of the product of (x − base^i), i = 1 to k, modulo `p`; the monic term is
not stored (R121). -/
def monicCoefficients (p base k : Nat) : List Nat := (powerProduct p base k base [1]).take k

/-- The 4-bit bar pattern P(i), i = 1 to 6 (R104). -/
def rmPattern : Nat → Nat
  | 1 => 0b0011
  | 2 => 0b0101
  | 3 => 0b0110
  | 4 => 0b1001
  | 5 => 0b1010
  | _ => 0b1100

/-- `(P(row) << 4) OR P(column)`, row x / 6 + 1 and column x mod 6 + 1 (R104). -/
def rmEntry (x : Nat) : Nat := (rmPattern (x / 6 + 1) <<< 4) ||| rmPattern (x % 6 + 1)

end Sys2Proof.Machine
end

