-- ==== Sys2Proof/Config.lean ====
section
/-! DEFINITION. What an implementation of the BCE fixes (00_scope.md R7) and the free values: the values
the spec leaves open, as constants without a body, so that nothing can be proved of which value they have. DATA_WIDTH and
ADDR_WIDTH stand in Word.lean, because the word types rest on them. -/

namespace Sys2Proof.Config

/-- `CW_DEPTH`: codeword buffer entries (R7). -/
abbrev cwDepth : Nat := 4096
/-- `EV_DEPTH`: event buffer entries (R7). -/
abbrev evDepth : Nat := 8192
/-- `GRID_DIM`: rows and columns of each grid (R7). -/
abbrev gridDim : Nat := 256
/-- `BARTAB_DEPTH`: bar-width table entries (R7). -/
abbrev bartabDepth : Nat := 256
/-- `PDF_CLUSTERS`: PDF417 pattern sets (R7). -/
abbrev pdfClusters : Nat := 3
/-- `PDF_CW_COUNT`: PDF417 codewords 0 to 928 (R7). -/
abbrev pdfCwCount : Nat := 929
/-- `PDF_LEVEL_MAX`: the largest PDF417 error-correction level (R7). -/
abbrev pdfLevelMax : Nat := 8
/-- `PDF_ROWS_MAX` (R7). -/
abbrev pdfRowsMax : Nat := 90
/-- `PDF_COLS_MAX` (R7). -/
abbrev pdfColsMax : Nat := 30
/-- `GF_POLY`: the field polynomial of GF(256), x^8 + x^5 + x^3 + x^2 + 1 (R7, R112; 90_conflicts.md C1). -/
abbrev gfPoly : Nat := 0x12D
/-- `GF_ALPHA`: the primitive element α of GF(256) whose powers ALOG holds (R7, R112; 93_implementation_defined.md G1,
I17). -/
abbrev gfAlpha : Nat := 2
/-- `RS_K_MAX`: the largest ECC codeword count of one block (R7). -/
abbrev rsKMax : Nat := 255
/-- `FCS_POLY` of the frame check sequence (R7, R105). -/
abbrev fcsPoly : Nat := 0x0F35
/-- The FCS width: the bits of the frame check sequence and of its initial value (R7, R31, R105). -/
abbrev fcsWidth : Nat := 11
/-- `FCS_BYTES`: the bytes CK_FCS takes (R7). -/
abbrev fcsBytes : Nat := 13
/-- The element whose powers are the roots of the default `PDF_EC_COEFF`: the root 3 of R121. -/
abbrev pdfEcRoot : Nat := 3
/-- `PDF_EC_COEFF[L]`, L at most PDF_LEVEL_MAX: the contents of the PDF417 coefficient ROM, 2^(L+1) values below 929. It is a
parameter; its value is the default of R121, with the roots 3^i for i = 1 to k (R7, R43; I17). DEDUCED, unsafe if G5 is right: G5 of
93_implementation_defined.md writes i = 0 to k − 1 instead, and no entry of 90_conflicts.md settles it; the model
takes R121, whose value rows its formula gives (log entry 26). -/
def pdfEcCoeff (level : Nat) : List Nat := Machine.monicCoefficients pdfCwCount pdfEcRoot (2 ^ (level + 1))
/-- `RM_TABLE[x]`, x below 36: the contents of the Royal Mail ROM, 8 bits each. It is a parameter; its value is the default
of R104 (R7, R44; I17). -/
def rmTable (x : Nat) : Nat := Machine.rmEntry x

/-- The value of the ID register, the ASCII characters BC4E (R18). -/
abbrev idValue : Word := 0x42433445#32
/-- The value of the VERSION register (R19). -/
abbrev versionValue : Word := 1#32
/-- The value of the PARAM0 register (R36, R8). -/
abbrev param0Value : Word := BitVec.ofNat dataWidth (evDepth * 65536 + cwDepth)
/-- The value of the PARAM1 register (R36, R8). -/
abbrev param1Value : Word := BitVec.ofNat dataWidth (bartabDepth * 65536 + gridDim)

/-- Free value: what CW entry `i` holds by draw `d` (R49, R182). -/
opaque freeCw (d i : Nat) : BitVec 16
/-- Free value: the code of GA cell `i` by draw `d`, decoded as R56 decodes a code (R49, R89, R182). -/
opaque freeGa (d i : Nat) : BitVec 2
/-- Free value: the code of GB cell `i` by draw `d`, decoded as R56 decodes a code (R49, R182). -/
opaque freeGb (d i : Nat) : BitVec 2
/-- Free value: what EV entry `i` holds by draw `d` (R49, R182). -/
opaque freeEv (d i : Nat) : Word
/-- Free value: what BT entry `i` holds by draw `d` (R49). -/
opaque freeBt (d i : Nat) : Word
/-- Free value: what PT entry `i` holds by draw `d` (R49). -/
opaque freePt (d i : Nat) : BitVec 17
/-- Free value: what a 32-bit result register holds after a rule wrote the number `v` to it that has no
32-bit form (RS_ECC200's LENGTH error with N + E of 2^32 or more; R117 with R26). DESIGN CHOICE, safe:
the spec states no value there (log entry 10). -/
opaque wideResult (v : Nat) : Word

/-- OPEN parameter: the clock cycles beyond the first of the initialisation (R7, R183). -/
opaque initTimeBeyondOne : Nat
/-- `INIT_TIME`: a finite positive number of clock cycles (R7, R183, R193). Which one is OPEN. -/
def initTime : Nat := initTimeBeyondOne + 1
/-- OPEN parameter: the clock cycles beyond the first of a command, by its command word, the values of the registers it
reads in the order of R77, and the elements it takes from CW (R7, R97). -/
opaque latencyBeyondOne (word : Word) (operands : List Nat) (elements : List (Option (BitVec 16))) : Nat
/-- `LATENCY`: a function from a command and its operands to a finite positive number of clock cycles (R7, R97, R193).
Which one is OPEN. -/
def latency (word : Word) (operands : List Nat) (elements : List (Option (BitVec 16))) : Nat :=
  latencyBeyondOne word operands elements + 1

end Sys2Proof.Config
end

