-- ==== Sys2Proof/Syntax.lean ====
section
/-! DEFINITION. The commands of the BCE: one constructor for each row of the opcode map
(30_encoding.md R71, spec/opcode_table.json). The only operands inside the command word are F and KIND
(R70, R73, R74, R78); all others are registers (R77). -/

namespace Sys2Proof

/-- A BCE command. `verify`, `selA` and `black1` are the F flag (R73), `kind` the field KIND, bits 15 to 12
of the word (R70, R74). -/
inductive Instr where
  /-- NOP, opcode 0x00 (R91). -/
  | nop
  /-- RS_ECC200, opcode 0x01 (R117). -/
  | rsEcc200
  /-- PDF_ECC, opcode 0x02 (R122). -/
  | pdfEcc
  /-- CK_MOD10, opcode 0x10 (R100). -/
  | ckMod10 (verify : Bool)
  /-- CK_MOD103, opcode 0x11 (R101). -/
  | ckMod103 (verify : Bool)
  /-- CK_MOD6, opcode 0x12 (R103). -/
  | ckMod6 (verify : Bool)
  /-- CK_FCS, opcode 0x13 (R106). -/
  | ckFcs (verify : Bool)
  /-- DM_PLACE, opcode 0x20 (R133). -/
  | dmPlace
  /-- DM_FRAME, opcode 0x21 (R138). -/
  | dmFrame
  /-- GRID_EMIT, opcode 0x22 (R141). -/
  | gridEmit (selA : Bool)
  /-- PDF_ROWS, opcode 0x30 (R150). -/
  | pdfRows
  /-- BAR_WALK, opcode 0x31 (R154). -/
  | barWalk (black1 : Bool) (kind : BitVec 4)
  deriving DecidableEq, Repr

end Sys2Proof
end

