-- ==== Sys2Proof/WellFormed.lean ====
section
/-! DEFINITION. Which terms of `Instr` are commands: R74 gives KIND the legal values 0 to 7, and 8 to 15 are
reserved (30_encoding.md R74, R75; 44_layout_bars.md R148). Every other operand of the command word is one
flag, which has no illegal value. -/

namespace Sys2Proof

/-- The term is a command the spec gives: a BAR_WALK's KIND is 0 to 7 (R74, R75). -/
def Instr.wellFormed : Instr → Bool
  | .nop => true
  | .rsEcc200 => true
  | .pdfEcc => true
  | .ckMod10 _ => true
  | .ckMod103 _ => true
  | .ckMod6 _ => true
  | .ckFcs _ => true
  | .dmPlace => true
  | .dmFrame => true
  | .gridEmit _ => true
  | .pdfRows => true
  | .barWalk _ kind => decide (kind.toNat < 8)

end Sys2Proof
end

