-- ==== Sys2Proof/Decode.lean ====
section
/-! DEFINITION. The command word CMD32 (30_encoding.md R69 to R76): the decoder, total on all 2^32 words and
rejecting by name, and after it the encoder. Every rejected word ends with the error BAD_COMMAND (R75); the
names below only say which condition of R75 failed first, and no register shows them. -/

namespace Sys2Proof

/-- Why a command word is not well-formed (R75). The machine reports each as BAD_COMMAND (R161). -/
inductive DecodeError where
  /-- A bit of w[11:9] or w[31:16] is 1 (R75). -/
  | reservedBits
  /-- w[7:0] is one of the 244 reserved opcodes (R76). -/
  | reservedOpcode
  /-- w[8] = 1 for an opcode that gives F no meaning (R73, R75). -/
  | undefinedFlag
  /-- w[15:12] is not 0 for an opcode other than BAR_WALK (R75). -/
  | kindOutsideBarWalk
  /-- w[15] = 1 for BAR_WALK, a KIND of 8 to 15 (R74, R75). -/
  | reservedKind
  deriving DecidableEq, Repr

/-- The OPCODE field, bits 7 to 0 (R70). -/
def opcodeField (w : Word) : BitVec 8 := w.extractLsb' 0 8
/-- The F field, bit 8 (R70). -/
def flagField (w : Word) : Bool := w.getLsbD 8
/-- The reserved field of bits 11 to 9 (R70). -/
def reservedLow (w : Word) : BitVec 3 := w.extractLsb' 9 3
/-- The KIND field, bits 15 to 12 (R70). -/
def kindField (w : Word) : BitVec 4 := w.extractLsb' 12 4
/-- The reserved field of bits 31 to 16 (R70). -/
def reservedHigh (w : Word) : BitVec 16 := w.extractLsb' 16 16

/-- A command that takes the flag F and no KIND (R73, R75). -/
def flagForm (kind : BitVec 4) (i : Instr) : Except DecodeError Instr :=
  if kind ≠ 0#4 then .error .kindOutsideBarWalk else .ok i

/-- A command that takes neither F nor KIND (R73, R75). -/
def plainForm (flag : Bool) (kind : BitVec 4) (i : Instr) : Except DecodeError Instr :=
  if flag then .error .undefinedFlag else flagForm kind i

/-- BAR_WALK takes F and a KIND of 0 to 7 (R74, R75). -/
def barWalkForm (flag : Bool) (kind : BitVec 4) : Except DecodeError Instr :=
  if kind.getLsbD 3 then .error .reservedKind else .ok (.barWalk flag kind)

/-- The opcode map of R71, applied to the fields of a word whose reserved bits are 0. -/
def decodeFields (op : BitVec 8) (flag : Bool) (kind : BitVec 4) : Except DecodeError Instr :=
  if op = 0x00#8 then plainForm flag kind .nop
  else if op = 0x01#8 then plainForm flag kind .rsEcc200
  else if op = 0x02#8 then plainForm flag kind .pdfEcc
  else if op = 0x10#8 then flagForm kind (.ckMod10 flag)
  else if op = 0x11#8 then flagForm kind (.ckMod103 flag)
  else if op = 0x12#8 then flagForm kind (.ckMod6 flag)
  else if op = 0x13#8 then flagForm kind (.ckFcs flag)
  else if op = 0x20#8 then plainForm flag kind .dmPlace
  else if op = 0x21#8 then plainForm flag kind .dmFrame
  else if op = 0x22#8 then flagForm kind (.gridEmit flag)
  else if op = 0x30#8 then plainForm flag kind .pdfRows
  else if op = 0x31#8 then barWalkForm flag kind
  else .error .reservedOpcode

/-- Decoding of a command word (R71, R73 to R76). -/
def decode (w : Word) : Except DecodeError Instr :=
  if reservedLow w ≠ 0#3 ∨ reservedHigh w ≠ 0#16 then .error .reservedBits
  else decodeFields (opcodeField w) (flagField w) (kindField w)

/-- The command word with these fields and every reserved bit 0 (R70). -/
def commandWord (op : BitVec 8) (flag : Bool) (kind : BitVec 4) : Word :=
  0#16 ++ kind ++ 0#3 ++ BitVec.ofBool flag ++ op

/-- The command word of a command (R70, R71, R73, R74). -/
def encode : Instr → Word
  | .nop => commandWord 0x00#8 false 0#4
  | .rsEcc200 => commandWord 0x01#8 false 0#4
  | .pdfEcc => commandWord 0x02#8 false 0#4
  | .ckMod10 verify => commandWord 0x10#8 verify 0#4
  | .ckMod103 verify => commandWord 0x11#8 verify 0#4
  | .ckMod6 verify => commandWord 0x12#8 verify 0#4
  | .ckFcs verify => commandWord 0x13#8 verify 0#4
  | .dmPlace => commandWord 0x20#8 false 0#4
  | .dmFrame => commandWord 0x21#8 false 0#4
  | .gridEmit selA => commandWord 0x22#8 selA 0#4
  | .pdfRows => commandWord 0x30#8 false 0#4
  | .barWalk black1 kind => commandWord 0x31#8 black1 kind

/-- The command word that an opcode-table row's bits `w` stand for: `nbits` bits, every higher bit 0. The BCE
stores no command in memory; its one word is written to CMD whole (R69, R72). -/
def tableWord (nbits w : Nat) : Word := BitVec.ofNat Config.dataWidth (w % 2 ^ nbits)

/-- What the decoder reads from an opcode-table row's bits (none where it rejects them). -/
def decodeTableWord (nbits w : Nat) : Option Instr :=
  match decode (tableWord nbits w) with
  | .ok i => some i
  | .error _ => none

end Sys2Proof
end

