-- ==== Sys2Proof/Machine/State.lean ====
section
/-! DEFINITION. The state of the BCE (10_state.md R17), as plain data, the reasons a step can stop, and the
state after a power-on reset (10_state.md R48, 70_reset_and_hazards.md R181). -/

namespace Sys2Proof.Machine

/-- A grid cell: the source's tri-state unset / 0 / 1 (R40). `set false` is LIGHT (0) and `set true` is DARK (1). -/
inductive Cell where
  | unset
  | set (dark : Bool)
  deriving DecidableEq, Repr

/-- The six RAMs (R17, R37 to R41). -/
inductive RamName where
  | cw
  | ga
  | gb
  | ev
  | bt
  | pt
  deriving DecidableEq, Repr

/-- The error codes of STATUS.ERRCODE (60_exceptions.md R161), in the order of their numbers 0x00 to 0x0C. -/
inductive ErrCode where
  | none
  | badCommand
  | length
  | range
  | eccShape
  | level
  | geometry
  | overlap
  | incomplete
  | cwUnderrun
  | evOverflow
  | table
  | mismatch
  deriving DecidableEq, Repr

/-- The engine mode (R45). In mode BUSY the engine holds the accepted command word (R23, R45). -/
inductive Engine where
  | init
  | idle
  | busy (word : Word)
  deriving DecidableEq, Repr

/-- A bus response (R50). -/
inductive Resp where
  | okay
  | slverr
  deriving DecidableEq, Repr

/-- The last answer of the host port: none since power-on, or what a Read or a Write transaction returned (R50).
The model's own field (log entry 16). -/
inductive Reply where
  | none
  | read (resp : Resp) (rdata : Word)
  | write (resp : Resp)
  deriving DecidableEq, Repr

/-- One move of an agent (R13), or the power-on reset input (R181). `size` is the transaction's size in bytes
(R50). The model's own data (log entry 1). -/
inductive Turn where
  /-- The engine moves: it ends its initialisation, or ends its command, or stays idle (R83). -/
  | engine
  /-- The host makes a Read transaction (R50). -/
  | read (addr : HostAddr) (size : Nat)
  /-- The host makes a Write transaction (R50). -/
  | write (addr : HostAddr) (size : Nat) (wdata : Word)
  /-- The host reads STATUS until BUSY is 0 (R65, R81 `wait`; log entry 17). -/
  | poll
  /-- A power-on reset (R181). -/
  | powerOn
  deriving DecidableEq, Repr

/-- A RAM as the entries something has written since power-on, with their indices strictly rising; an index that
is not listed is unwritten (R49; log entry 5). -/
abbrev Ram (α : Type) := List (Nat × α)

/-- The GF(256) tables (R42): `alog` holds ALOG[0] to ALOG[254]; `log` holds LOG[v] at position v, and `none`
at position 0, where LOG has no entry. -/
structure GfTables where
  alog : List (BitVec 8)
  log : List (Option (BitVec 8))
  deriving DecidableEq, Repr

/-- The reasons a step stops with a fault. -/
inductive Fault where
  /-- A command reads an entry of a RAM that nothing has written since power-on; raised by the command's read of the
  entry. SAFE: the spec leaves the command's result unspecified and has a model fault it, naming the entry (R49). -/
  | unwritten (ram : RamName) (index : Nat)
  /-- RS_ECC200 runs before the initialisation built ALOG and LOG; raised by RS_ECC200. SAFE: the engine accepts
  no command before they are built (R183, R184), so no reachable state raises it (log entry 13). -/
  | romNotBuilt
  deriving DecidableEq, Repr

/-- The reasons a step is refused. -/
inductive Refusal where
  /-- The instruction has no meaning in the model yet; raised by no arm of `exec`, since every command has its
  meaning. SAFE. -/
  | notModelled (mnemonic : String)
  deriving DecidableEq, Repr

/-- The machine (R17). The last four fields are the model's own; every other one is the spec's. -/
structure State where
  /-- CTRL.IRQEN (R20). -/
  irqen : Bool
  /-- STATUS.DONE (R21). -/
  done : Bool
  /-- STATUS.ERR (R21). -/
  err : Bool
  /-- STATUS.ERRCODE (R21, R161). -/
  errcode : ErrCode
  /-- STATUS.LASTOP (R21). -/
  lastop : BitVec 8
  /-- LEN[12:0] (R24). -/
  len : BitVec 13
  /-- ARG1 (R25). -/
  arg1 : Word
  /-- ARG2 (R25). -/
  arg2 : Word
  /-- ARG3 (R25). -/
  arg3 : Word
  /-- RESULT0 (R26). -/
  result0 : Word
  /-- RESULT1 (R26). -/
  result1 : Word
  /-- EV_WPTR[13:0] (R27). -/
  evWptr : BitVec 14
  /-- PDF_START[16:0] (R28). -/
  pdfStart : BitVec 17
  /-- PDF_STOP[17:0] (R29). -/
  pdfStop : BitVec 18
  /-- CFG.C128W0 (R30). -/
  c128w0 : Bool
  /-- CFG.RMLIT (R30). -/
  rmlit : Bool
  /-- FCS_INIT[10:0], as wide as the FCS (R7, R31). -/
  fcsInit : BitVec Config.fcsWidth
  /-- The codeword buffer, by entry index (R39). -/
  cw : Ram (BitVec 16)
  /-- Grid A, by 256 · row + column (R40, R51). -/
  ga : Ram Cell
  /-- Grid B, by 256 · row + column (R40, R51). -/
  gb : Ram Cell
  /-- The event buffer, by entry index (R41). -/
  ev : Ram Word
  /-- The bar-width table, by entry index (R38). -/
  bt : Ram Word
  /-- The PDF417 pattern table, by 1024 · cluster + codeword (R37, R51). -/
  pt : Ram (BitVec 17)
  /-- ALOG and LOG once the initialisation has built them (R42, R183). -/
  gf : Option GfTables
  /-- The engine mode and the accepted command word (R45). -/
  engine : Engine
  /-- The agents' coming moves; when it is empty, the engine moves. -/
  turns : List Turn
  /-- The host port's last answer. -/
  reply : Reply
  /-- The draw that names what unwritten entries read as. -/
  epoch : Nat
  /-- How many draws of free values were made. -/
  draws : Nat
  deriving DecidableEq, Repr

/-- The machine when a power-on reset is released (R48, R181): the reset value of every register, every RAM entry
unwritten, the GF(256) tables not built yet, and the engine in mode INIT. -/
def State.reset : State where
  irqen := false
  done := false
  err := false
  errcode := .none
  lastop := 0#8
  len := 0#13
  arg1 := 0#32
  arg2 := 0#32
  arg3 := 0#32
  result0 := 0#32
  result1 := 0#32
  evWptr := 0#14
  pdfStart := 0x1FEA8#17
  pdfStop := 0x3FA29#18
  c128w0 := true
  rmlit := false
  fcsInit := 0x7FF#11
  cw := []
  ga := []
  gb := []
  ev := []
  bt := []
  pt := []
  gf := none
  engine := .init
  turns := []
  reply := .none
  epoch := 0
  draws := 1

end Sys2Proof.Machine
end

