-- ==== Sys2Proof/Machine/Flags.lean ====
section
/-! DEFINITION. The BCE's flags: READY, BUSY, DONE, ERR and ERRCODE (10_state.md R21, R22, R35), the IRQ output
computed from them (R47), and what the issue, the completion and the error of a command do to them. -/

namespace Sys2Proof.Machine

/-- The number of an error code in STATUS[15:8] (R161). -/
def errNumber : ErrCode → BitVec 8
  | .none => 0x00#8
  | .badCommand => 0x01#8
  | .length => 0x02#8
  | .range => 0x03#8
  | .eccShape => 0x04#8
  | .level => 0x05#8
  | .geometry => 0x06#8
  | .overlap => 0x07#8
  | .incomplete => 0x08#8
  | .cwUnderrun => 0x09#8
  | .evOverflow => 0x0A#8
  | .table => 0x0B#8
  | .mismatch => 0x0C#8

/-- STATUS.READY: 0 exactly when the engine mode is INIT (R21, R45). -/
def ready (s : State) : Bool :=
  match s.engine with
  | .init => false
  | .idle => true
  | .busy _ => true

/-- STATUS.BUSY: 1 exactly when the engine mode is INIT or BUSY (R21, R45). -/
def busy (s : State) : Bool :=
  match s.engine with
  | .init => true
  | .idle => false
  | .busy _ => true

/-- What STATUS reads as: LASTOP [23:16], ERRCODE [15:8], ERR 3, DONE 2, BUSY 1, READY 0, the rest 0 (R21). -/
def statusWord (s : State) : Word :=
  0#8 ++ s.lastop ++ errNumber s.errcode ++ 0#4 ++
    BitVec.ofBool s.err ++ BitVec.ofBool s.done ++ BitVec.ofBool (busy s) ++ BitVec.ofBool (ready s)

/-- The IRQ output: CTRL.IRQEN AND (DONE OR ERR) (R47, R167). -/
def irq (s : State) : Bool := s.irqen && (s.done || s.err)

/-- A host write to STATUS: bit 2 clears DONE, bit 3 clears ERR, and no other bit changes (R22). -/
def clearStatus (wdata : Word) (s : State) : State :=
  { s with
    done := s.done && !wdata.getLsbD 2
    err := s.err && !wdata.getLsbD 3 }

/-- The issue of command word `w`: LASTOP takes its opcode, DONE and ERR are cleared, and the engine becomes
BUSY with the word (R72, R45). -/
def issue (w : Word) (s : State) : State :=
  { s with
    lastop := w.extractLsb' 0 8
    done := false
    err := false
    engine := .busy w }

/-- The flags of a completion: ERRCODE 0x00, DONE 1, BUSY 0, the engine IDLE (R86). -/
def flagsComplete (s : State) : State :=
  { s with
    errcode := .none
    done := true
    engine := .idle }

/-- The flags of an error: ERRCODE the code, ERR 1, BUSY 0, the engine IDLE (R88). -/
def flagsError (code : ErrCode) (s : State) : State :=
  { s with
    errcode := code
    err := true
    engine := .idle }

end Sys2Proof.Machine
end

