-- ==== Sys2Proof/Machine/Ops.lean ====
section
/-! DEFINITION. The operations every command shares: reading and writing the RAMs, completing (40_command_common.md
R86, R87), ending with an error (R88, the BCE's one exception mechanism: it transfers no control and nothing
returns from it, 60_exceptions.md R164, R166), and emitting events (R92 to R95). -/

namespace Sys2Proof.Machine

/-- Entry `i` of a RAM, `none` where nothing has written it since power-on (R49). -/
def Ram.read {α : Type} : Ram α → Nat → Option α
  | [], _ => none
  | (j, v) :: rest, i => if j = i then some v else Ram.read rest i

/-- The values `vs` as the RAM entries `lo`, `lo + 1`, … -/
def Ram.block {α : Type} : Nat → List α → Ram α
  | _, [] => []
  | lo, v :: vs => (lo, v) :: Ram.block (lo + 1) vs

/-- Write the values `vs` to the entries `lo`, `lo + 1`, … and leave every other entry as it was. -/
def Ram.writeBlock {α : Type} (m : Ram α) (lo : Nat) (vs : List α) : Ram α :=
  m.filter (fun p => decide (p.1 < lo)) ++ Ram.block lo vs ++
    m.filter (fun p => decide (lo + vs.length ≤ p.1))

/-- Write one entry. -/
def Ram.write {α : Type} (m : Ram α) (i : Nat) (v : α) : Ram α := m.writeBlock i [v]

/-- The index of grid cell (r, c): 256 · r + c, as the GRIDA and GRIDB windows number the cells (R51). -/
def cellIndex (r c : Nat) : Nat := r * Config.gridDim + c

/-- The index of PT[cl][v]: 1024 · cl + v, as the PDFTAB window numbers the entries (R51, R55). -/
def ptIndex (cl v : Nat) : Nat := cl * 1024 + v

/-- Write the first `rows` rows, counted from row 0, of the `cols` leftmost columns of a grid: cell (r, c) takes
`f r c`. Every other cell is left as it was. -/
def Ram.writeRect (m : Ram Cell) (rows cols : Nat) (f : Nat → Nat → Cell) : Ram Cell :=
  (List.range rows).foldl
    (fun g r => Ram.writeBlock g (cellIndex r 0) ((List.range cols).map (f r))) m

/-- The cell a 2-bit code stores: 0b10 LIGHT, 0b11 DARK, 0b00 and 0b01 UNSET (R56). -/
def cellOfCode (code : BitVec 2) : Cell :=
  if code.getLsbD 1 then .set (code.getLsbD 0) else .unset

/-- The 2-bit code a cell reads as: UNSET 0b00, LIGHT 0b10, DARK 0b11 (R40, R56). -/
def codeOfCell : Cell → BitVec 2
  | .unset => 0b00#2
  | .set false => 0b10#2
  | .set true => 0b11#2

/-- How a command ends before it completes: with an error code and two result values (R88), or with a fault of
the model. -/
inductive Halt where
  | error (code : ErrCode) (r0 r1 : Nat)
  | fault (f : Fault)
  deriving DecidableEq, Repr

/-- A command's work: a value, or the way the command ended. -/
abbrev Work (α : Type) := Except Halt α

/-- The number `v` in a 32-bit result register (R26). A rule's number of 2^32 or more has no 32-bit form, and the
spec states no value for it: a free value. DESIGN CHOICE, safe (log entry 10). -/
def resultWord (v : Nat) : Word :=
  if v < 2 ^ Config.dataWidth then BitVec.ofNat Config.dataWidth v else Config.wideResult v

/-- Completion: RESULT0 and RESULT1 are written, then the flags of a completion (R86, R87). -/
def complete (r0 r1 : Nat) (s : State) : State :=
  flagsComplete { s with result0 := resultWord r0, result1 := resultWord r1 }

/-- `raise Error(code, r0, r1)`: RESULT0 and RESULT1 are written, then the flags of an error; EV_WPTR and every RAM
stay as they are (R88, R89). -/
def raiseError (code : ErrCode) (r0 r1 : Nat) (s : State) : State :=
  flagsError code { s with result0 := resultWord r0, result1 := resultWord r1 }

/-- The end of a word that is not well-formed: the error BAD_COMMAND with RESULT0 the word (R72, R75). -/
def badCommand (w : Word) (s : State) : State := raiseError .badCommand w.toNat 0 s

/-- The end of a command whose work began in state `s`. -/
def finish (s : State) : Work State → Host.Outcome State Fault Refusal
  | .ok t => .next t
  | .error (.error code r0 r1) => .next (raiseError code r0 r1 s)
  | .error (.fault f) => .fault f

/-- A check of a command rule: unless `ok` holds, the command ends with this error. -/
def require (ok : Bool) (code : ErrCode) (r0 r1 : Nat) : Work Unit :=
  if ok then .ok () else .error (.error code r0 r1)

/-- A command's read of a RAM entry. An entry nothing has written since power-on is a fault that names it (R49). -/
def readEntry {α : Type} (name : RamName) (m : Ram α) (i : Nat) : Work α :=
  match m.read i with
  | some v => .ok v
  | none => .error (.fault (.unwritten name i))

/-! ## Events (40_command_common.md section 3) -/

/-- `EvBar(b, n)`: an ADD_BAR event (R93). -/
def evBar (black : Bool) (width : Nat) : Word :=
  BitVec.ofNat Config.dataWidth ((if black then 0x1000 else 0) ||| width)

/-- `EvGroup(k, l)`: a START_GROUP event (R93). -/
def evGroup (kind label : Nat) : Word :=
  BitVec.ofNat Config.dataWidth (0x10000000 ||| (kind <<< 24) ||| label)

/-- `EvEndGroup` (R93). -/
def evEndGroup : Word := 0x20000000#32
/-- `EvRow` (R93). -/
def evRow : Word := 0x30000000#32
/-- `EvEndRow` (R93). -/
def evEndRow : Word := 0x40000000#32

/-- The kind START_CHARACTER (R148). -/
def kindStart : Nat := 0
/-- The kind STOP_CHARACTER (R148). -/
def kindStop : Nat := 1
/-- The kind MSG_CHARACTER (R148). -/
def kindMsg : Nat := 2

/-- The bits n−1 down to 0 of a pattern, leftmost module first (R94). -/
def patternBits (p : Nat) : Nat → List Bool
  | 0 => []
  | n + 1 => p.testBit n :: patternBits p n

/-- The runs of a list that goes on from `width` modules of colour `black`. -/
def runsFrom (black : Bool) (width : Nat) : List Bool → List (Bool × Nat)
  | [] => [(black, width)]
  | b :: rest =>
    if b = black then runsFrom black (width + 1) rest else (black, width) :: runsFrom b 1 rest

/-- The maximal runs of equal modules, left to right, with their colour and length (R94). -/
def runs : List Bool → List (Bool × Nat)
  | [] => []
  | b :: rest => runsFrom b 1 rest

/-- `Bars`: one ADD_BAR for each maximal run (R94). -/
def bars (modules : List Bool) : List Word := (runs modules).map (fun r => evBar r.1 r.2)

/-- How many neighbours differ. -/
def changes : List Bool → Nat
  | [] => 0
  | [_] => 0
  | a :: b :: rest => (if a = b then 0 else 1) + changes (b :: rest)

/-- `Runs`: one more than the neighbours that differ (R94). -/
def runCount (modules : List Bool) : Nat := 1 + changes modules

/-- What an emitting command has worked out before its first write: the event count `T` of its rule and the events
in their order (R92, R95). -/
structure EventPlan where
  count : Nat
  events : List Word
  deriving DecidableEq, Repr

/-- The end of every emitting command: unless the events fit below EV_DEPTH it raises EV_OVERFLOW; else they are
written from EV_WPTR on, EV_WPTR advances by their number, and RESULT0 is that number (R92, R95). -/
def emit (s : State) (plan : EventPlan) : Work State := do
  require (decide (s.evWptr.toNat + plan.count ≤ Config.evDepth)) .evOverflow plan.count s.evWptr.toNat
  .ok (complete plan.count 0
    { s with
      ev := s.ev.writeBlock s.evWptr.toNat plan.events
      evWptr := BitVec.ofNat 14 (s.evWptr.toNat + plan.count) })

end Sys2Proof.Machine
end

