-- ==== Sys2Proof/Machine/Operands.lean ====
section
/-! DEFINITION. The operand forms of the commands (30_encoding.md R77, R78): the operand registers as unsigned
numbers, the elements CW[0, N) with their range check, the VERIFY form (41_checksum.md R98, R99), and grid
regions read in row-major order. -/

namespace Sys2Proof.Machine

/-- N, the element count LEN[12:0] (R24, R77). -/
def lenN (s : State) : Nat := s.len.toNat
/-- ARG1 as an unsigned number (R25, R77). -/
def arg1N (s : State) : Nat := s.arg1.toNat
/-- ARG2 as an unsigned number (R25, R77). -/
def arg2N (s : State) : Nat := s.arg2.toNat
/-- ARG3 as an unsigned number (R25, R77). -/
def arg3N (s : State) : Nat := s.arg3.toNat
/-- ARG3[15:0], DM_FRAME's regions down (R77). -/
def arg3Low (s : State) : Nat := (s.arg3.extractLsb' 0 16).toNat
/-- ARG3[31:16], DM_FRAME's regions across (R77). -/
def arg3High (s : State) : Nat := (s.arg3.extractLsb' 16 16).toNat

/-- CW[i] as a command reads it (R39, R49). -/
def readCw (s : State) (i : Nat) : Work Nat :=
  match readEntry .cw s.cw i with
  | .ok v => .ok v.toNat
  | .error h => .error h

/-- The `n` elements from CW[i] on, in ascending order, each checked to be at most `limit`; the first one above it
raises `Error(RANGE, index, element)` (R99). -/
def readRanged (s : State) (limit : Nat) : Nat → Nat → Work (List Nat)
  | _, 0 => .ok []
  | i, n + 1 => do
    let v ← readCw s i
    require (decide (v ≤ limit)) .range i v
    let rest ← readRanged s limit (i + 1) n
    .ok (v :: rest)

/-- The number F stands for in the pseudocode. -/
def flagN (f : Bool) : Nat := if f then 1 else 0

/-- The length check of CK_MOD10, CK_MOD103 and CK_MOD6: LENGTH with VERIFY and N = 0, and for N above CW_DEPTH
(R99). -/
def checkLength (verify : Bool) (n : Nat) : Work Unit :=
  require (!((verify && decide (n = 0)) || decide (Config.cwDepth < n))) .length n 0

/-- The payload of a checksum command: all elements, or all but the last with VERIFY (R98). -/
def payload (verify : Bool) (xs : List Nat) : List Nat :=
  if verify then xs.dropLast else xs

/-- The comparison of the VERIFY form: the supplied value, the last element, must equal the computed one, else
`Error(MISMATCH, chk, supplied)` (R98). -/
def checkSupplied (verify : Bool) (xs : List Nat) (chk : Nat) : Work Unit :=
  if verify then require (decide (xs.getLastD 0 = chk)) .mismatch chk (xs.getLastD 0) else .ok ()

/-- A cell read by DM_FRAME or GRID_EMIT: UNSET raises `Error(INCOMPLETE, 0, (r << 16) OR c)` (R138, R141). -/
def readSetCell (name : RamName) (g : Ram Cell) (r c : Nat) : Work Bool := do
  match ← readEntry name g (cellIndex r c) with
  | .unset => .error (.error .incomplete 0 ((r <<< 16) ||| c))
  | .set dark => .ok dark

/-- The `n` cells of row `r` from column `c` on, all set (R138, R141). -/
def readRow (name : RamName) (g : Ram Cell) (r : Nat) : Nat → Nat → Work (List Bool)
  | _, 0 => .ok []
  | c, n + 1 => do
    let dark ← readSetCell name g r c
    let rest ← readRow name g r (c + 1) n
    .ok (dark :: rest)

/-- The `n` rows from row `r` on, each of `cols` cells, in row-major order, all set (R138, R141). -/
def readRows (name : RamName) (g : Ram Cell) (cols : Nat) : Nat → Nat → Work (List (List Bool))
  | _, 0 => .ok []
  | r, n + 1 => do
    let row ← readRow name g r 0 cols
    let rest ← readRows name g cols (r + 1) n
    .ok (row :: rest)

end Sys2Proof.Machine
end

