-- ==== Sys2Proof/Machine/Bars.lean ====
section
/-! DEFINITION. The linear layout commands PDF_ROWS and BAR_WALK (44_layout_bars.md). -/

namespace Sys2Proof.Machine

/-! ## PDF_ROWS -/

/-- The left row indicator of row y in a symbol of r rows, c data columns and level L (R149). -/
def leftIndicator (y r c level : Nat) : Nat :=
  30 * (y / 3) +
    (if y % 3 = 0 then (r - 1) / 3 else if y % 3 = 1 then 3 * level + (r - 1) % 3 else c - 1)

/-- The right row indicator of row y (R149). -/
def rightIndicator (y r c level : Nat) : Nat :=
  30 * (y / 3) +
    (if y % 3 = 0 then c - 1 else if y % 3 = 1 then (r - 1) / 3 else 3 * level + (r - 1) % 3)

/-- The codewords row y shows: the left indicator, the row's data columns and the right indicator (R150). -/
def rowCodewords (data : List Nat) (r c level y : Nat) : List Nat :=
  leftIndicator y r c level :: ((data.drop (y * c)).take c ++ [rightIndicator y r c level])

/-- The patterns PT[cl][v] of the codewords, each checked to start black and end white: the first one that does not
raises `Error(TABLE, (cl << 16) OR v, PT[cl][v])` (R150). Each pattern is kept with its codeword. -/
def readPatterns (s : State) (cl : Nat) : List Nat → Work (List (Nat × Nat))
  | [] => .ok []
  | v :: rest => do
    let p ← readEntry .pt s.pt (ptIndex cl v)
    require (p.toNat.testBit 16 && !p.toNat.testBit 0) .table ((cl <<< 16) ||| v) p.toNat
    let more ← readPatterns s cl rest
    .ok ((v, p.toNat) :: more)

/-- The patterns of the `n` rows from row y on (R150). -/
def readRowPatterns (s : State) (data : List Nat) (r c level : Nat) : Nat → Nat → Work (List (List (Nat × Nat)))
  | _, 0 => .ok []
  | y, n + 1 => do
    let row ← readPatterns s (y % Config.pdfClusters) (rowCodewords data r c level y)
    let rest ← readRowPatterns s data r c level (y + 1) n
    .ok (row :: rest)

/-- One bar group of a pattern of n modules (R147, R150). -/
def patternGroup (kind label pattern n : Nat) : List Word :=
  [evGroup kind label] ++ bars (patternBits pattern n) ++ [evEndGroup]

/-- The events of one PDF417 row (R150). -/
def pdfRowEvents (start stop : Nat) (row : List (Nat × Nat)) : List Word :=
  [evRow] ++ patternGroup kindStart 0 start 17 ++
    row.flatMap (fun q => patternGroup kindMsg q.1 q.2 17) ++
    patternGroup kindStop 0 stop 18 ++ [evEndRow]

/-- The event count of one PDF417 row (R151). -/
def pdfRowCount (start stop : Nat) (row : List (Nat × Nat)) : Nat :=
  2 + (2 + runCount (patternBits start 17)) + (2 + runCount (patternBits stop 18)) +
    (row.map (fun q => 2 + runCount (patternBits q.2 17))).sum

/-- PDF_ROWS's work before its event check: the checks in the order of R150, T (R151) and the events. -/
def pdfRowsPlan (s : State) : Work EventPlan := do
  let r := arg1N s
  let c := arg2N s
  let level := arg3N s
  require (decide (1 ≤ r ∧ r ≤ Config.pdfRowsMax ∧ 1 ≤ c ∧ c ≤ Config.pdfColsMax)) .geometry r c
  require (decide (level ≤ Config.pdfLevelMax)) .level level 0
  require (decide (lenN s = r * c)) .length (lenN s) (r * c)
  let data ← readRanged s (Config.pdfCwCount - 1) 0 (lenN s)
  let rows ← readRowPatterns s data r c level 0 r
  let start := s.pdfStart.toNat
  let stop := s.pdfStop.toNat
  .ok { count := (rows.map (pdfRowCount start stop)).sum, events := rows.flatMap (pdfRowEvents start stop) }

/-- PDF_ROWS, the rows of a PDF417 symbol (R149 to R151). -/
def execPdfRows (s : State) : Host.Outcome State Fault Refusal :=
  finish s do
    let plan ← pdfRowsPlan s
    emit s plan

/-! ## BAR_WALK -/

/-- t[3:0], the number of elements of a bar-width table entry (R153). -/
def entryCount (t : Nat) : Nat := t % 16
/-- t[4e+7 : 4e+4], the width of element e (R153). -/
def entryWidth (t e : Nat) : Nat := (t >>> (4 * e + 4)) % 16
/-- The widths of the entry's elements, in order (R153). -/
def entryWidths (t : Nat) : List Nat := (List.range (entryCount t)).map (entryWidth t)

/-- The entry is valid: 1 to 7 elements, none of width 0 (R153). -/
def entryValid (t : Nat) : Bool :=
  decide (1 ≤ entryCount t) && decide (entryCount t ≤ 7) && (entryWidths t).all (fun w => decide (w ≠ 0))

/-- The entries of the table indices, each checked to be valid: the first one that is not raises
`Error(TABLE, index, entry)` (R154). Each entry is kept with its index. -/
def readBarEntries (s : State) : List Nat → Work (List (Nat × Nat))
  | [] => .ok []
  | x :: rest => do
    let t ← readEntry .bt s.bt x
    require (entryValid t.toNat) .table x t.toNat
    let more ← readBarEntries s rest
    .ok ((x, t.toNat) :: more)

/-- The ADD_BARs of the widths in alternating colours, the first one black if `black` (R154). -/
def alternateBars : Bool → List Nat → List Word
  | _, [] => []
  | black, w :: rest => evBar black w :: alternateBars (!black) rest

/-- The bar group of one table entry (R154). -/
def entryGroup (kind : Nat) (black1 : Bool) (q : Nat × Nat) : List Word :=
  [evGroup kind q.1] ++ alternateBars black1 (entryWidths q.2) ++ [evEndGroup]

/-- BAR_WALK's work before its event check: the checks in the order of R154, T and the events. -/
def barWalkPlan (black1 : Bool) (kind : BitVec 4) (s : State) : Work EventPlan := do
  require (decide (lenN s ≤ Config.cwDepth)) .length (lenN s) 0
  let xs ← readRanged s (Config.bartabDepth - 1) 0 (lenN s)
  let entries ← readBarEntries s xs
  .ok { count := (entries.map (fun q => 2 + entryCount q.2)).sum,
        events := entries.flatMap (entryGroup kind.toNat black1) }

/-- BAR_WALK, the walk of the bar-width table (R153, R154). A KIND of 8 to 15 is no command: it ends with BAD_COMMAND,
as its word does (R74, R75; log entry 18). -/
def execBarWalk (black1 : Bool) (kind : BitVec 4) (s : State) : Host.Outcome State Fault Refusal :=
  if (Instr.barWalk black1 kind).wellFormed then
    finish s do
      let plan ← barWalkPlan black1 kind s
      emit s plan
  else .next (badCommand (encode (.barWalk black1 kind)) s)

end Sys2Proof.Machine
end

