-- ==== Sys2Proof/Machine/Checksum.lean ====
section
/-! DEFINITION. The checksum generators CK_MOD10, CK_MOD103, CK_MOD6 and CK_FCS (41_checksum.md). -/

namespace Sys2Proof.Machine

/-- The weighted sum of digits given from the right, the first one at position `p`: weight 3 at odd positions and 1
at even ones (R100). -/
def mod10Sum : Nat → List Nat → Nat
  | _, [] => 0
  | p, x :: xs => x * (if p % 2 = 1 then 3 else 1) + mod10Sum (p + 1) xs

/-- The mod-10 check digit of a sum (R100). -/
def mod10Check (sum : Nat) : Nat := (10 - sum % 10) % 10

/-- CK_MOD10, UPC/EAN weighted mod-10 (R98, R99, R100). -/
def execCkMod10 (verify : Bool) (s : State) : Host.Outcome State Fault Refusal :=
  finish s do
    checkLength verify (lenN s)
    let xs ← readRanged s 9 0 (lenN s)
    let sum := mod10Sum 1 (payload verify xs).reverse
    checkSupplied verify xs (mod10Check sum)
    .ok (complete (mod10Check sum) sum s)

/-- The weighted sum of the elements from index `i` on: the weight is the index, and W0 at index 0 (R101). -/
def mod103Sum (w0 : Nat) : Nat → List Nat → Nat
  | _, [] => 0
  | i, x :: xs => x * (if i = 0 then w0 else i) + mod103Sum w0 (i + 1) xs

/-- CK_MOD103, Code128 weighted mod-103 (R98, R99, R101). It has no RANGE error: every 16-bit element passes. -/
def execCkMod103 (verify : Bool) (s : State) : Host.Outcome State Fault Refusal :=
  finish s do
    checkLength verify (lenN s)
    let xs ← readRanged s 0xFFFF 0 (lenN s)
    let chk := mod103Sum (flagN s.c128w0) 0 (payload verify xs) % 103
    checkSupplied verify xs chk
    .ok (complete chk 0 s)

/-- The number bit `i` of `t` stands for. -/
def bitN (t i : Nat) : Nat := if t.testBit i then 1 else 0

/-- The weights 4, 2, 1, 0 applied to the four bits of a half of a Royal Mail ROM entry, whose leftmost bar is bit
`top` (R102). -/
def weighHalf (t top : Nat) : Nat :=
  4 * bitN t top + 2 * bitN t (top - 1) + 1 * bitN t (top - 2) + 0 * bitN t (top - 3)

/-- The row value of a character: the weights applied to the ascender bits (R102). -/
def rowVal (x : Nat) : Nat := weighHalf (Config.rmTable x) 7
/-- The column value of a character: the weights applied to the descender bits (R102). -/
def colVal (x : Nat) : Nat := weighHalf (Config.rmTable x) 3

/-- The Royal Mail check index of a row sum and a column sum (R103). -/
def mod6Check (literal : Bool) (rs cs : Nat) : Nat :=
  if literal then (rs % 6) * 6 + cs % 6 else ((rs + 5) % 6) * 6 + (cs + 5) % 6

/-- CK_MOD6, Royal Mail / KIX row-column mod-6 (R98, R99, R103). -/
def execCkMod6 (verify : Bool) (s : State) : Host.Outcome State Fault Refusal :=
  finish s do
    checkLength verify (lenN s)
    let xs ← readRanged s 35 0 (lenN s)
    let rs := ((payload verify xs).map rowVal).sum
    let cs := ((payload verify xs).map colVal).sum
    let chk := mod6Check s.rmlit rs cs
    checkSupplied verify xs chk
    .ok (complete chk ((rs <<< 16) ||| cs) s)

/-- The largest value of the FCS register, all its bits 1: 0x7FF (R7, R105, R106). -/
def fcsMask : Nat := 2 ^ Config.fcsWidth - 1

/-- The new register value of one FCS step with input word `d`, whose next bit stands at the register's top bit, bit 10
(R105). -/
def fcsStep (f d : Nat) : Nat :=
  if (f ^^^ d) &&& 2 ^ (Config.fcsWidth - 1) ≠ 0 then ((f <<< 1) ^^^ Config.fcsPoly) &&& fcsMask
  else (f <<< 1) &&& fcsMask

/-- `n` FCS steps; each one shifts the input word left by one (R105). -/
def fcsSteps : Nat → Nat → Nat → Nat
  | 0, f, _ => f
  | n + 1, f, d => fcsSteps n (fcsStep f d) (d <<< 1)

/-- The low `n` bits of a byte through the FCS register, most significant first: the byte is shifted so that its bit n − 1
stands at the register's top bit, by 5 for 6 bits and by 3 for 8 (R105, R106). -/
def fcsBits (n f b : Nat) : Nat := fcsSteps n f (b <<< (Config.fcsWidth - n))

/-- The frame check sequence of the bytes: bits 5 to 0 of the first one and all bits of the others, most
significant first (R105, R106). -/
def fcsOf (fcsInit : Nat) : List Nat → Nat
  | [] => fcsInit
  | b :: rest => rest.foldl (fcsBits 8) (fcsBits 6 fcsInit b)

/-- CK_FCS, the USPS Intelligent Mail frame check sequence (R98, R106). The supplied FCS of the VERIFY form is
checked against its own range after the bytes. -/
def execCkFcs (verify : Bool) (s : State) : Host.Outcome State Fault Refusal :=
  finish s do
    require (decide (lenN s = Config.fcsBytes + flagN verify)) .length (lenN s) 0
    let bytes ← readRanged s 255 0 Config.fcsBytes
    let supplied ← readRanged s fcsMask Config.fcsBytes (flagN verify)
    let fcs := fcsOf s.fcsInit.toNat bytes
    checkSupplied verify supplied fcs
    .ok (complete fcs 0 s)

end Sys2Proof.Machine
end

