-- ==== Sys2Proof/Machine/Common.lean ====
section
/-! DEFINITION. The command with no family: NOP (40_command_common.md R91). -/

namespace Sys2Proof.Machine

/-- NOP: RESULT0 and RESULT1 are 0, and the command completes (R91). -/
def execNop (s : State) : Host.Outcome State Fault Refusal := .next (complete 0 0 s)

end Sys2Proof.Machine
end

