-- ==== Sys2Proof/Machine/Rom.lean ====
section
/-! DEFINITION. The table build of the initialisation: ALOG and LOG (10_state.md R42, 42_ecc.md R113). -/

namespace Sys2Proof.Machine

/-- The product of a byte and x in GF(256): `v << 1`, reduced by `GF_POLY` when it leaves the byte (R112, R113). -/
def gfDouble (v : Nat) : Nat :=
  if v <<< 1 < 256 then v <<< 1 else (v <<< 1) ^^^ Config.gfPoly

/-- The product in GF(256) of the byte `v` and the low `n` bits of `a`: v · x^i for each bit i of `a` that is 1 (R112). -/
def gfProduct : Nat → Nat → Nat → Nat
  | 0, _, _ => 0
  | n + 1, a, v => (if a % 2 = 1 then v else 0) ^^^ gfProduct n (a / 2) (gfDouble v)

/-- One turn of the table build's loop on v: the product with the primitive element α = `GF_ALPHA` (R7, R112). For
GF_ALPHA = 2 it is the `v << 1` and the reduction of R113. -/
def gfNextPower (v : Nat) : Nat := gfProduct 8 Config.gfAlpha v

/-- The loop of R113 from index `i` and value `v`, for `n` more turns: ALOG in order, and LOG filled at the values. -/
def buildTables : Nat → Nat → Nat → List (Option (BitVec 8)) → GfTables
  | 0, _, _, log => { alog := [], log := log }
  | n + 1, i, v, log =>
    let rest := buildTables n (i + 1) (gfNextPower v) (log.set v (some (BitVec.ofNat 8 i)))
    { alog := BitVec.ofNat 8 v :: rest.alog, log := rest.log }

/-- ALOG and LOG as the initialisation builds them (R113): 255 turns from v = 1. LOG[0] stays without a value. -/
def gfTables : GfTables := buildTables 255 0 1 (List.replicate 256 none)

end Sys2Proof.Machine
end

