-- ==== Sys2Proof/Machine/Ecc.lean ====
section
/-! DEFINITION. The error-correction codec: RS_ECC200 over GF(256) and PDF_ECC modulo 929 (42_ecc.md). -/

namespace Sys2Proof.Machine

/-- ALOG[i] (R42). An index the table does not have is read by no rule; it stands for 0 here. -/
def alogOf (t : GfTables) (i : Nat) : BitVec 8 := t.alog.getD i 0#8

/-- α^i, as ALOG[i mod 255]: ALOG has no entry 255, which GenPoly's loop names for k = 255, and α^255 = 1 (R112, R115).
DEDUCED, safe (log entry 25). -/
def alphaPower (t : GfTables) (i : Nat) : BitVec 8 := alogOf t (i % 255)

/-- LOG[v] as a number (R42). LOG[0] is read by no rule (R114); it stands for 0 here. -/
def logOf (t : GfTables) (v : BitVec 8) : Nat := ((t.log.getD v.toNat none).getD 0#8).toNat

/-- Multiplication in GF(256) (R114). -/
def gmul (t : GfTables) (a b : BitVec 8) : BitVec 8 :=
  if a = 0#8 ∨ b = 0#8 then 0#8 else alogOf t ((logOf t a + logOf t b) % 255)

/-- The product of a polynomial over GF(256), lowest coefficient first, and (x + root) (R115). -/
def mulRoot (t : GfTables) (root : BitVec 8) (g : List (BitVec 8)) : List (BitVec 8) :=
  List.zipWith (· ^^^ ·) (0#8 :: g) (g.map (fun a => gmul t a root) ++ [0#8])

/-- The product of (x + α^i) over the next `n` values of i, from `i` on, times `g` (R115). -/
def genProduct (t : GfTables) : Nat → Nat → List (BitVec 8) → List (BitVec 8)
  | 0, _, g => g
  | n + 1, i, g => genProduct t n (i + 1) (mulRoot t (alphaPower t i) g)

/-- `GenPoly(k)`: the coefficients of x^0 to x^(k−1) of the generator polynomial; the monic term is dropped (R115). -/
def genPoly (t : GfTables) (k : Nat) : List (BitVec 8) := (genProduct t k 1 [1#8]).take k

/-- One data codeword into the remainder register: m = e[k−1] XOR the codeword, e[j] becomes e[j−1] XOR m · g[j], and
e[0] becomes m · g[0] (R117). -/
def rsStep (t : GfTables) (g e : List (BitVec 8)) (d : BitVec 8) : List (BitVec 8) :=
  List.zipWith (fun x c => x ^^^ gmul t (e.getLastD 0#8 ^^^ d) c) (0#8 :: e.dropLast) g

/-- The remainder register after a block's data codewords, from zero (R117). -/
def rsRemainder (t : GfTables) (g : List (BitVec 8)) (data : List (BitVec 8)) : List (BitVec 8) :=
  data.foldl (rsStep t g) (List.replicate g.length 0#8)

/-- The data codewords of block `b` of `B`: those whose index d has d mod B = b, in ascending order (R116). -/
def blockData (B b : Nat) (data : List (BitVec 8)) : List (BitVec 8) :=
  (data.zipIdx.filter (fun p => decide (p.2 % B = b))).map (·.1)

/-- The ECC codewords of block `b` in output order: the highest-degree coefficient first (R117). -/
def blockEcc (t : GfTables) (k B : Nat) (data : List (BitVec 8)) (b : Nat) : List (BitVec 8) :=
  (rsRemainder t (genPoly t k) (blockData B b data)).reverse

/-- The ECC area CW[N, N + E) from its first entry on: ECC codeword j of block b is at b + j · B (R116). -/
def eccArea (t : GfTables) (k B : Nat) (data : List (BitVec 8)) : List (BitVec 8) :=
  (List.range k).flatMap fun j => (List.range B).map fun b => (blockEcc t k B data b).getD j 0#8

/-- RS_ECC200's test of its operand shape: whole blocks of 1 to RS_K_MAX ECC codewords (R117). -/
def eccShapeOk (E B : Nat) : Bool :=
  !(decide (B = 0) || decide (E = 0) || decide (E % B ≠ 0) || decide (Config.rsKMax < E / B))

/-- The GF(256) tables, which the initialisation built before the engine accepts a command (R183). -/
def readTables (s : State) : Work GfTables :=
  match s.gf with
  | some t => .ok t
  | none => .error (.fault .romNotBuilt)

/-- RS_ECC200, DataMatrix ECC200 Reed-Solomon with interleaved blocks (R116, R117). -/
def execRsEcc200 (s : State) : Host.Outcome State Fault Refusal :=
  finish s do
    require (eccShapeOk (arg1N s) (arg2N s)) .eccShape (arg1N s) (arg2N s)
    require (decide (lenN s + arg1N s ≤ Config.cwDepth)) .length (lenN s + arg1N s) 0
    let xs ← readRanged s 255 0 (lenN s)
    let t ← readTables s
    let k := arg1N s / arg2N s
    let ecc := eccArea t k (arg2N s) (xs.map (BitVec.ofNat 8))
    .ok (complete (lenN s + arg1N s) k
      { s with cw := s.cw.writeBlock (lenN s) (ecc.map (BitVec.setWidth 16)) })

/-- One data codeword into the accumulators of PDF_ECC: t1 = (the codeword + e[k−1]) mod 929, and e[j] becomes
e[j−1] − t1 · a[j] modulo 929, with 0 for e[−1] (R122). -/
def pdfStep (a e : List Nat) (d : Nat) : List Nat :=
  List.zipWith
    (fun x c =>
      (x + Config.pdfCwCount - ((d + e.getLastD 0) % Config.pdfCwCount * c) % Config.pdfCwCount)
        % Config.pdfCwCount)
    (0 :: e.dropLast) a

/-- The accumulators after the data codewords, from zero (R122). -/
def pdfRemainder (a data : List Nat) : List Nat :=
  data.foldl (pdfStep a) (List.replicate a.length 0)

/-- The EC codewords: each accumulator negated modulo 929, the highest degree first (R122; 90_conflicts.md C3). -/
def pdfEcc (a data : List Nat) : List Nat :=
  (pdfRemainder a data).reverse.map (fun x => (Config.pdfCwCount - x) % Config.pdfCwCount)

/-- PDF_ECC, PDF417 mod-929 error-correction codewords (R122). -/
def execPdfEcc (s : State) : Host.Outcome State Fault Refusal :=
  finish s do
    require (decide (arg1N s ≤ Config.pdfLevelMax)) .level (arg1N s) 0
    let k := 2 ^ (arg1N s + 1)
    require (decide (lenN s + k ≤ Config.cwDepth)) .length (lenN s + k) 0
    let xs ← readRanged s (Config.pdfCwCount - 1) 0 (lenN s)
    .ok (complete (lenN s + k) k
      { s with
        cw := s.cw.writeBlock (lenN s)
          ((pdfEcc (Config.pdfEcCoeff (arg1N s)) xs).map (BitVec.ofNat 16)) })

end Sys2Proof.Machine
end

