-- ==== Sys2Proof/Machine/Matrix.lean ====
section
/-! DEFINITION. The matrix layout commands DM_PLACE, DM_FRAME and GRID_EMIT (43_layout_matrix.md). -/

namespace Sys2Proof.Machine

/-! ## DM_PLACE

The placement is worked out on a sheet that records, for each cell of the region, which bit of which codeword it
takes. No step of it looks at a codeword's value, only at which cells are taken and at N, as R134 says. The sheet
is filled in from CW afterwards. -/

/-- What a cell of the mapping matrix takes: nothing yet (UNSET), bit `bit` (1 to 8) of codeword `pos` (R129), or a
fixed value of the corner fill (R135). -/
inductive Mark where
  | unset
  | codeword (pos bit : Nat)
  | fixed (dark : Bool)
  deriving DecidableEq, Repr

/-- The placement so far: the sheet, row by row, and the index of the next codeword. -/
structure Placing where
  sheet : List (List Mark)
  pos : Nat
  deriving DecidableEq, Repr

/-- What the placement loop asks for: a corner pattern's eight cells (R132), or the standard pattern at an anchor
(R130) where the anchor is in range and UNSET (R133). -/
inductive Move where
  | corner (cells : List (Int × Int))
  | anchor (row col : Int)
  deriving DecidableEq, Repr

/-- The mark at (r, c); a cell outside the sheet is not UNSET. -/
def markAt (sheet : List (List Mark)) (r c : Nat) : Mark := (sheet.getD r []).getD c (.fixed false)

/-- The cell is UNSET. -/
def isUnset (sheet : List (List Mark)) (r c : Nat) : Bool :=
  match markAt sheet r c with
  | .unset => true
  | .codeword _ _ => false
  | .fixed _ => false

/-- The sheet with cell (r, c) taken. -/
def setMark (sheet : List (List Mark)) (r c : Nat) (m : Mark) : List (List Mark) :=
  sheet.modify r (fun row => row.set c m)

/-- The wrap of a negative coordinate into the matrix, first of the row and then of the column (R129). -/
def wrapCell (R C : Int) (cell : Int × Int) : Int × Int :=
  let a := if cell.1 < 0 then (cell.1 + R, cell.2 + 4 - (R + 4) % 8) else cell
  if a.2 < 0 then (a.1 + 4 - (C + 4) % 8, a.2 + C) else a

/-- `(r mod 2^16) << 16 OR (c mod 2^16)` of a coordinate pair (R129, R162). -/
def cellReport (r c : Int) : Nat := ((r % 65536).toNat <<< 16) ||| (c % 65536).toNat

/-- `module(r, c, bit)` for codeword `pos` (R129). -/
def placeModule (R C : Nat) (pos bit : Nat) (sheet : List (List Mark)) (cell : Int × Int) :
    Work (List (List Mark)) :=
  let w := wrapCell R C cell
  if 0 ≤ w.1 ∧ w.1 < R ∧ 0 ≤ w.2 ∧ w.2 < C then
    if isUnset sheet w.1.toNat w.2.toNat then
      .ok (setMark sheet w.1.toNat w.2.toNat (.codeword pos bit))
    else .error (.error .overlap pos ((w.1.toNat <<< 16) ||| w.2.toNat))
  else .error (.error .geometry pos (cellReport w.1 w.2))

/-- The bits from `bit` on at the cells, in order (R130). -/
def placeBits (R C : Nat) (pos : Nat) : Nat → List (Int × Int) → List (List Mark) → Work (List (List Mark))
  | _, [], sheet => .ok sheet
  | bit, cell :: rest, sheet => do
    let next ← placeModule R C pos bit sheet cell
    placeBits R C pos (bit + 1) rest next

/-- `pattern(cells)`: all 8 bits of the next codeword, if LEN supplies one (R130). -/
def placePattern (N R C : Nat) (cells : List (Int × Int)) (p : Placing) : Work Placing := do
  require (decide (p.pos < N)) .cwUnderrun p.pos N
  let sheet ← placeBits R C p.pos 1 cells p.sheet
  .ok { sheet := sheet, pos := p.pos + 1 }

/-- The cells of the standard pattern anchored at its bottom-right cell (R130). -/
def utah (r c : Int) : List (Int × Int) :=
  [(r - 2, c - 2), (r - 2, c - 1), (r - 1, c - 2), (r - 1, c - 1),
   (r - 1, c), (r, c - 2), (r, c - 1), (r, c)]

/-- The cells of corner pattern 1 (R132). -/
def corner1 (R C : Int) : List (Int × Int) :=
  [(R - 1, 0), (R - 1, 1), (R - 1, 2), (0, C - 2), (0, C - 1), (1, C - 1), (2, C - 1), (3, C - 1)]
/-- The cells of corner pattern 2 (R132). -/
def corner2 (R C : Int) : List (Int × Int) :=
  [(R - 3, 0), (R - 2, 0), (R - 1, 0), (0, C - 4), (0, C - 3), (0, C - 2), (0, C - 1), (1, C - 1)]
/-- The cells of corner pattern 3 (R132). -/
def corner3 (R C : Int) : List (Int × Int) :=
  [(R - 3, 0), (R - 2, 0), (R - 1, 0), (0, C - 2), (0, C - 1), (1, C - 1), (2, C - 1), (3, C - 1)]
/-- The cells of corner pattern 4 (R132). -/
def corner4 (R C : Int) : List (Int × Int) :=
  [(R - 1, 0), (R - 1, C - 1), (0, C - 3), (0, C - 2), (0, C - 1), (1, C - 3), (1, C - 2), (1, C - 1)]

/-- The corner patterns a pass begins with, by the cursor (R133). -/
def cornerMoves (R C row col : Int) : List Move :=
  (if row = R ∧ col = 0 then [.corner (corner1 R C)] else []) ++
  (if row = R - 2 ∧ col = 0 ∧ C % 4 ≠ 0 then [.corner (corner2 R C)] else []) ++
  (if row = R - 2 ∧ col = 0 ∧ C % 8 = 4 then [.corner (corner3 R C)] else []) ++
  (if row = R + 4 ∧ col = 2 ∧ C % 8 = 0 then [.corner (corner4 R C)] else [])

/-- Where the placement loop stands: at the top of a pass, or in its sweep up and right or down and left (R133). -/
inductive Sweep where
  | top
  | up
  | down
  deriving DecidableEq, Repr

/-- The moves of the placement loop from a cursor on (R133). The cursor never looks at the grid (R134). The first
argument bounds the number of moves (log entry 20). -/
def placeMoves (R C : Int) : Nat → Sweep → Int → Int → List Move
  | 0, _, _, _ => []
  | n + 1, .top, row, col => cornerMoves R C row col ++ placeMoves R C n .up row col
  | n + 1, .up, row, col =>
    .anchor row col ::
      (if 0 ≤ row - 2 ∧ col + 2 < C then placeMoves R C n .up (row - 2) (col + 2)
       else placeMoves R C n .down (row - 2 + 1) (col + 2 + 3))
  | n + 1, .down, row, col =>
    .anchor row col ::
      (if row + 2 < R ∧ 0 ≤ col - 2 then placeMoves R C n .down (row + 2) (col - 2)
       else if row + 2 + 3 < R ∨ col - 2 + 1 < C then placeMoves R C n .top (row + 2 + 3) (col - 2 + 1)
       else [])

/-- The bound on the cursor's moves: no size of 1 to 256 rows and columns takes more (R134; log entry 20). -/
def placeBound : Nat := 8448

/-- One move of the placement loop (R133). -/
def placeMove (N R C : Nat) (p : Placing) : Move → Work Placing
  | .corner cells => placePattern N R C cells p
  | .anchor row col =>
    if 0 ≤ row ∧ row < R ∧ 0 ≤ col ∧ col < C ∧ isUnset p.sheet row.toNat col.toNat = true then
      placePattern N R C (utah row col) p
    else .ok p

/-- The moves one after the other. -/
def placeAll (N R C : Nat) : List Move → Placing → Work Placing
  | [], p => .ok p
  | m :: rest, p => do
    let q ← placeMove N R C p m
    placeAll N R C rest q

/-- The corner fill's four cells, in order: each must still be UNSET (R135). -/
def fillCells (pos : Nat) : List (Nat × Nat × Bool) → List (List Mark) → Work (List (List Mark))
  | [], sheet => .ok sheet
  | (r, c, dark) :: rest, sheet => do
    require (isUnset sheet r c) .overlap pos ((r <<< 16) ||| c)
    fillCells pos rest (setMark sheet r c (.fixed dark))

/-- `CornerFill()`: the sheet after it, and its result 0 or 1 (R135). -/
def cornerFill (R C : Nat) (p : Placing) : Work (List (List Mark) × Nat) :=
  if isUnset p.sheet (R - 1) (C - 1) then do
    require (decide (2 ≤ R ∧ 2 ≤ C)) .geometry p.pos (((R - 1) <<< 16) ||| (C - 1))
    let sheet ← fillCells p.pos
      [(R - 1, C - 1, true), (R - 2, C - 2, true), (R - 1, C - 2, false), (R - 2, C - 1, false)] p.sheet
    .ok (sheet, 1)
  else .ok (p.sheet, 0)

/-- The column of the first UNSET cell of a row, counted from column `c` on. -/
def firstUnsetInRow : Nat → List Mark → Option Nat
  | _, [] => none
  | c, .unset :: _ => some c
  | c, .codeword _ _ :: rest => firstUnsetInRow (c + 1) rest
  | c, .fixed _ :: rest => firstUnsetInRow (c + 1) rest

/-- The first UNSET cell in row-major order, rows counted from `r` on. -/
def firstUnset : Nat → List (List Mark) → Option (Nat × Nat)
  | _, [] => none
  | r, row :: rest =>
    match firstUnsetInRow 0 row with
    | some c => some (r, c)
    | none => firstUnset (r + 1) rest

/-- A placement that ended without an error: the full sheet, the codewords placed and the corner fill's result. -/
structure Placed where
  sheet : List (List Mark)
  pos : Nat
  fill : Nat
  deriving DecidableEq, Repr

/-- DM_PLACE's work from the clearing of the region on, for N codewords and R × C cells (R133). It depends on
nothing else (R134). -/
def placement (N R C : Nat) : Work Placed := do
  let p ← placeAll N R C (placeMoves R C placeBound .top 4 0)
    { sheet := List.replicate R (List.replicate C .unset), pos := 0 }
  let q ← cornerFill R C p
  match firstUnset 0 q.1 with
  | some cell => .error (.error .incomplete p.pos ((cell.1 <<< 16) ||| cell.2))
  | none => .ok { sheet := q.1, pos := p.pos, fill := q.2 }

/-- The cell a mark stands for: bit b of a codeword v is `(v >> (8 − b)) AND 1`, 1 is DARK (R129, R131). -/
def cellOfMark (data : List Nat) : Mark → Cell
  | .unset => .unset
  | .codeword pos bit => .set ((data.getD pos 0).testBit (8 - bit))
  | .fixed dark => .set dark

/-- GA after a dynamic error of DM_PLACE: every cell of the region holds a free value, the rest is unchanged (R89). -/
def scrambleGa (s : State) (rows cols : Nat) : State :=
  { s with
    ga := s.ga.writeRect rows cols (fun r c => cellOfCode (Config.freeGa s.draws (cellIndex r c)))
    draws := s.draws + 1 }

/-- A size of 1 to GRID_DIM. -/
def inGrid (n : Nat) : Bool := decide (1 ≤ n) && decide (n ≤ Config.gridDim)

/-- DM_PLACE's checks before its first write; the codewords CW[0, N) (R133). -/
def placeOperands (s : State) : Work (List Nat) := do
  require (inGrid (arg1N s) && inGrid (arg2N s)) .geometry (arg1N s) (arg2N s)
  require (decide (lenN s ≤ Config.cwDepth)) .length (lenN s) 0
  readRanged s 255 0 (lenN s)

/-- DM_PLACE, DataMatrix module placement (R128 to R135). -/
def execDmPlace (s : State) : Host.Outcome State Fault Refusal :=
  match placeOperands s with
  | .error h => finish s (.error h)
  | .ok data =>
    match placement (lenN s) (arg1N s) (arg2N s) with
    | .error h => finish (scrambleGa s (arg1N s) (arg2N s)) (.error h)
    | .ok p =>
      finish s (.ok (complete p.pos p.fill
        { s with
          ga := s.ga.writeRect (arg1N s) (arg2N s) (fun r c => cellOfMark data (markAt p.sheet r c)) }))

/-! ## DM_FRAME -/

/-- DM_FRAME's test of its region geometry (R138). -/
def frameGeometryOk (h w rv rh : Nat) : Bool :=
  !(decide (h < 2) || decide (w < 2) || decide (h % 2 ≠ 0) || decide (w % 2 ≠ 0) ||
    decide (rv < 1) || decide (rh < 1) || decide (Config.gridDim < rv * (h + 2)) ||
    decide (Config.gridDim < rh * (w + 2)))

/-- Cell (r, c) of the symbol matrix for the mapping matrix `m` (R138). The row of regions is r / (h + 2), the column
of regions c / (w + 2), and the cell lies on the top, bottom, left or right edge of its region or inside it. -/
def frameCell (m : List (List Bool)) (h w r c : Nat) : Bool :=
  let y := r % (h + 2)
  let x := c % (w + 2)
  if y = 0 then decide (c % 2 = 0)
  else if y = h + 1 then true
  else if x = 0 then true
  else if x = w + 1 then decide ((r / (h + 2) * h + (y - 1)) % 2 = 0)
  else (m.getD (r / (h + 2) * h + (y - 1)) []).getD (c / (w + 2) * w + (x - 1)) false

/-- DM_FRAME, the ECC200 symbol matrix from the mapping matrix (R138). -/
def execDmFrame (s : State) : Host.Outcome State Fault Refusal :=
  finish s do
    let h := arg1N s
    let w := arg2N s
    let rv := arg3Low s
    let rh := arg3High s
    require (frameGeometryOk h w rv rh) .geometry h w
    let m ← readRows .ga s.ga (rh * w) 0 (rv * h)
    .ok (complete (rv * (h + 2)) (rh * (w + 2))
      { s with
        gb := s.gb.writeRect (rv * (h + 2)) (rh * (w + 2)) (fun r c => .set (frameCell m h w r c)) })

/-! ## GRID_EMIT -/

/-- The events of grid row `y` (R141). -/
def gridRowEvents (y : Nat) (row : List Bool) : List Word :=
  [evRow, evGroup kindMsg y] ++ bars row ++ [evEndGroup, evEndRow]

/-- The events of the rows from row `y` on (R141). -/
def gridEvents : Nat → List (List Bool) → List Word
  | _, [] => []
  | y, row :: rest => gridRowEvents y row ++ gridEvents (y + 1) rest

/-- GRID_EMIT's event count T (R141). -/
def gridEventCount (m : List (List Bool)) : Nat := (m.map (fun row => 4 + runCount row)).sum

/-- GRID_EMIT's work before its event check: the geometry and completeness checks, T and the events (R141). -/
def gridEmitPlan (selA : Bool) (s : State) : Work EventPlan := do
  require (inGrid (arg1N s) && inGrid (arg2N s)) .geometry (arg1N s) (arg2N s)
  let m ← if selA then readRows .ga s.ga (arg2N s) 0 (arg1N s) else readRows .gb s.gb (arg2N s) 0 (arg1N s)
  .ok { count := gridEventCount m, events := gridEvents 0 m }

/-- GRID_EMIT, a grid as row events (R141). -/
def execGridEmit (selA : Bool) (s : State) : Host.Outcome State Fault Refusal :=
  finish s do
    let plan ← gridEmitPlan selA s
    emit s plan

end Sys2Proof.Machine
end

