-- ==== Sys2Proof/Machine/Dispatch.lean ====
section
/-! DEFINITION. The meaning of each command (30_encoding.md R71): one arm for each constructor of `Instr`. -/

namespace Sys2Proof.Machine

def exec (i : Instr) (s : State) : Host.Outcome State Fault Refusal :=
  match i with
  | .nop => Sys2Proof.Machine.execNop s
  | .rsEcc200 => Sys2Proof.Machine.execRsEcc200 s
  | .pdfEcc => Sys2Proof.Machine.execPdfEcc s
  | .ckMod10 verify => Sys2Proof.Machine.execCkMod10 verify s
  | .ckMod103 verify => Sys2Proof.Machine.execCkMod103 verify s
  | .ckMod6 verify => Sys2Proof.Machine.execCkMod6 verify s
  | .ckFcs verify => Sys2Proof.Machine.execCkFcs verify s
  | .dmPlace => Sys2Proof.Machine.execDmPlace s
  | .dmFrame => Sys2Proof.Machine.execDmFrame s
  | .gridEmit selA => Sys2Proof.Machine.execGridEmit selA s
  | .pdfRows => Sys2Proof.Machine.execPdfRows s
  | .barWalk black1 kind => Sys2Proof.Machine.execBarWalk black1 kind s

end Sys2Proof.Machine
end

