-- ==== Sys2Proof/Machine/Reset.lean ====
section
/-! DEFINITION. Initialisation (70_reset_and_hazards.md R183), the soft reset (R182) and the power-on reset (R181). -/

namespace Sys2Proof.Machine

/-- The initialisation, from its start to its end: ALOG and LOG are built, READY becomes 1 and BUSY 0, and the engine
mode becomes IDLE. It reads no register and no RAM and writes nothing else (R183). -/
def finishInit (s : State) : State := { s with gf := some gfTables, engine := .idle }

/-- Entries lo to hi − 1 of CW hold free values (R182). -/
def freeCwRange (s : State) (lo hi : Nat) : State :=
  { s with cw := s.cw.writeBlock lo ((List.range (hi - lo)).map (fun k => Config.freeCw s.draws (lo + k))) }

/-- Entries lo to hi − 1 of EV hold free values (R182). -/
def freeEvRange (s : State) (lo hi : Nat) : State :=
  { s with ev := s.ev.writeBlock lo ((List.range (hi - lo)).map (fun k => Config.freeEv s.draws (lo + k))) }

/-- The cells [0, rows) × [0, cols) of GA, clipped to GRID_DIM, hold free values (R182). -/
def freeGaRect (s : State) (rows cols : Nat) : State :=
  { s with
    ga := s.ga.writeRect (min rows Config.gridDim) (min cols Config.gridDim)
      (fun r c => cellOfCode (Config.freeGa s.draws (cellIndex r c))) }

/-- The cells [0, rows) × [0, cols) of GB, clipped to GRID_DIM, hold free values (R182). -/
def freeGbRect (s : State) (rows cols : Nat) : State :=
  { s with
    gb := s.gb.writeRect (min rows Config.gridDim) (min cols Config.gridDim)
      (fun r c => cellOfCode (Config.freeGb s.draws (cellIndex r c))) }

/-- The output region of an emitting command holds free values: EV[e, min(e + T, EV_DEPTH)) (R182). A command whose
checks before T fail writes no event; where T depends on an unwritten entry, the whole of EV from e on is taken
(log entry 9). -/
def freeEmitRegion (s : State) : Work EventPlan → State
  | .ok plan => freeEvRange s s.evWptr.toNat (min (s.evWptr.toNat + plan.count) Config.evDepth)
  | .error (.error _ _ _) => s
  | .error (.fault _) => freeEvRange s s.evWptr.toNat Config.evDepth

/-- The output region of an abandoned command holds free values (R182). -/
def freeRegion (i : Instr) (s : State) : State :=
  match i with
  | .nop => s
  | .ckMod10 _ => s
  | .ckMod103 _ => s
  | .ckMod6 _ => s
  | .ckFcs _ => s
  | .rsEcc200 => freeCwRange s (lenN s) (min (lenN s + arg1N s) Config.cwDepth)
  | .pdfEcc => freeCwRange s (lenN s) (min (lenN s + 2 ^ (min (arg1N s) 12 + 1)) Config.cwDepth)
  | .dmPlace => freeGaRect s (arg1N s) (arg2N s)
  | .dmFrame => freeGbRect s (arg3Low s * (arg1N s + 2)) (arg3High s * (arg2N s + 2))
  | .gridEmit selA => freeEmitRegion s (gridEmitPlan selA s)
  | .pdfRows => freeEmitRegion s (pdfRowsPlan s)
  | .barWalk black1 kind => freeEmitRegion s (barWalkPlan black1 kind s)

/-- What a soft reset does to the RAMs: the output region of a running command holds free values by a draw of its own;
nothing else changes (R182). A word that is not well-formed has no output region (R72, R89). -/
def abandon (s : State) : State :=
  match s.engine with
  | .init => s
  | .idle => s
  | .busy w =>
    match decode w with
    | .ok i => { freeRegion i s with draws := s.draws + 1 }
    | .error _ => s

/-- The soft reset: every register takes its reset value, the RAMs are kept but for an abandoned command's output
region, and the initialisation starts again (R182, R48). -/
def softReset (s : State) : State :=
  { State.reset with
    cw := (abandon s).cw
    ga := (abandon s).ga
    gb := (abandon s).gb
    ev := (abandon s).ev
    bt := (abandon s).bt
    pt := (abandon s).pt
    turns := s.turns
    reply := s.reply
    epoch := s.epoch
    draws := (abandon s).draws }

/-- The power-on reset: every register takes its reset value, every RAM entry is unwritten, and what the entries read
as is a new draw (R181, R48, R49). -/
def powerOn (s : State) : State :=
  { State.reset with
    turns := s.turns
    epoch := s.draws
    draws := s.draws + 1 }

end Sys2Proof.Machine
end

