-- ==== Sys2Proof/Machine/HostPort.lean ====
section
/-! DEFINITION. The host port (20_memory.md): the address map (R51, R52), the responses (R57), and what a Read or a
Write transaction does (10_state.md R18 to R36, 20_memory.md R53 to R58). -/

namespace Sys2Proof.Machine

/-- The eighteen registers (R17, R52). -/
inductive Reg where
  | id
  | version
  | ctrl
  | status
  | cmd
  | len
  | arg1
  | arg2
  | arg3
  | result0
  | result1
  | evWptr
  | pdfStart
  | pdfStop
  | cfg
  | fcsInit
  | param0
  | param1
  deriving DecidableEq, Repr

/-- What an address of the map names (R51, R52, R55). Grid cells and PT entries carry their index in the window. -/
inductive Target where
  | reg (r : Reg)
  | regHole
  | cw (i : Nat)
  | bt (i : Nat)
  | pt (i : Nat)
  | ptHole
  | ga (i : Nat)
  | gb (i : Nat)
  | ev (i : Nat)
  deriving DecidableEq, Repr

/-- The registers by word offset, from offset 0x000 on (R52). -/
def regList : List Reg :=
  [.id, .version, .ctrl, .status, .cmd, .len, .arg1, .arg2, .arg3, .result0, .result1, .evWptr,
   .pdfStart, .pdfStop, .cfg, .fcsInit, .param0, .param1]

/-- The register at a word of the REG window, or a hole (R52). -/
def regTarget (word : Nat) : Target :=
  match regList[word]? with
  | some r => .reg r
  | none => .regHole

/-- The entry at index `idx` of the PDFTAB window: `PT[idx[11:10]][idx[9:0]]` for cl ≤ 2 and v < 929 (R51, R55). -/
def ptTarget (idx : Nat) : Target :=
  if idx / 1024 < Config.pdfClusters ∧ idx % 1024 < Config.pdfCwCount then .pt idx else .ptHole

/-- The window of `entries` words from `base` on holds byte address `a`. -/
def inWindow (a base entries : Nat) : Bool := decide (base ≤ a) && decide (a < base + 4 * entries)

/-- The address map (R51): what byte address `a` names, if it is mapped. -/
def target (a : Nat) : Option Target :=
  if inWindow a 0x00000 256 then some (regTarget (a / 4))
  else if inWindow a 0x04000 Config.cwDepth then some (.cw ((a - 0x04000) / 4))
  else if inWindow a 0x08000 Config.bartabDepth then some (.bt ((a - 0x08000) / 4))
  else if inWindow a 0x10000 4096 then some (ptTarget ((a - 0x10000) / 4))
  else if inWindow a 0x40000 (Config.gridDim * Config.gridDim) then some (.ga ((a - 0x40000) / 4))
  else if inWindow a 0x80000 (Config.gridDim * Config.gridDim) then some (.gb ((a - 0x80000) / 4))
  else if inWindow a 0xC0000 Config.evDepth then some (.ev ((a - 0xC0000) / 4))
  else none

/-- The target answers in every engine mode: ID, VERSION, CTRL, STATUS, PARAM0, PARAM1 and the REG holes (R57 c). -/
def alwaysOpen : Target → Bool
  | .reg .id => true
  | .reg .version => true
  | .reg .ctrl => true
  | .reg .status => true
  | .reg .param0 => true
  | .reg .param1 => true
  | .reg _ => false
  | .regHole => true
  | .cw _ => false
  | .bt _ => false
  | .pt _ => false
  | .ptHole => false
  | .ga _ => false
  | .gb _ => false
  | .ev _ => false

/-- The target of a transaction that gets OKAY; none for one that gets SLVERR: an unmapped address, a size other than
4 bytes, a misaligned address, or a target locked out while the engine is INIT or BUSY (R57). -/
def accepted (s : State) (addr : HostAddr) (size : Nat) : Option Target :=
  if size = 4 ∧ addr.toNat % 4 = 0 then
    match target addr.toNat with
    | some t => if busy s && !alwaysOpen t then none else some t
    | none => none
  else none

/-- What a register reads as (R18 to R36). -/
def readReg (s : State) : Reg → Word
  | .id => Config.idValue
  | .version => Config.versionValue
  | .ctrl => 0#30 ++ BitVec.ofBool s.irqen ++ 0#1
  | .status => statusWord s
  | .cmd => 0#32
  | .len => s.len.setWidth Config.dataWidth
  | .arg1 => s.arg1
  | .arg2 => s.arg2
  | .arg3 => s.arg3
  | .result0 => s.result0
  | .result1 => s.result1
  | .evWptr => s.evWptr.setWidth Config.dataWidth
  | .pdfStart => s.pdfStart.setWidth Config.dataWidth
  | .pdfStop => s.pdfStop.setWidth Config.dataWidth
  | .cfg => 0#30 ++ BitVec.ofBool s.rmlit ++ BitVec.ofBool s.c128w0
  | .fcsInit => s.fcsInit.setWidth Config.dataWidth
  | .param0 => Config.param0Value
  | .param1 => Config.param1Value

/-- What an accepted Read returns (R52 to R58). An entry nothing has written since power-on reads as a free value of
its type, one per entry (R49; log entry 7). -/
def readTarget (s : State) : Target → Word
  | .reg r => readReg s r
  | .regHole => 0#32
  | .cw i => ((s.cw.read i).getD (Config.freeCw s.epoch i)).setWidth Config.dataWidth
  | .bt i => (s.bt.read i).getD (Config.freeBt s.epoch i)
  | .pt i => ((s.pt.read i).getD (Config.freePt s.epoch i)).setWidth Config.dataWidth
  | .ptHole => 0#32
  | .ga i => (codeOfCell ((s.ga.read i).getD (cellOfCode (Config.freeGa s.epoch i)))).setWidth Config.dataWidth
  | .gb i => (codeOfCell ((s.gb.read i).getD (cellOfCode (Config.freeGb s.epoch i)))).setWidth Config.dataWidth
  | .ev i => (s.ev.read i).getD (Config.freeEv s.epoch i)

/-- A write to CTRL: bit 0 starts a soft reset, whatever bit 1 holds; else IRQEN takes bit 1 (R20, R182). -/
def writeCtrl (s : State) (wdata : Word) : State :=
  if wdata.getLsbD 0 then softReset s else { s with irqen := wdata.getLsbD 1 }

/-- An accepted write to a register (R18 to R36): read-only registers and reserved bits ignore it (R32). -/
def writeReg (s : State) (wdata : Word) : Reg → State
  | .id => s
  | .version => s
  | .ctrl => writeCtrl s wdata
  | .status => clearStatus wdata s
  | .cmd => issue wdata s
  | .len => { s with len := wdata.setWidth 13 }
  | .arg1 => { s with arg1 := wdata }
  | .arg2 => { s with arg2 := wdata }
  | .arg3 => { s with arg3 := wdata }
  | .result0 => s
  | .result1 => s
  | .evWptr => { s with evWptr := wdata.setWidth 14 }
  | .pdfStart => { s with pdfStart := wdata.setWidth 17 }
  | .pdfStop => { s with pdfStop := wdata.setWidth 18 }
  | .cfg => { s with c128w0 := wdata.getLsbD 0, rmlit := wdata.getLsbD 1 }
  | .fcsInit => { s with fcsInit := wdata.setWidth Config.fcsWidth }
  | .param0 => s
  | .param1 => s

/-- What an accepted Write does (R52 to R58, R61). -/
def writeTarget (s : State) (wdata : Word) : Target → State
  | .reg r => writeReg s wdata r
  | .regHole => s
  | .cw i => { s with cw := s.cw.write i (wdata.setWidth 16) }
  | .bt i => { s with bt := s.bt.write i wdata }
  | .pt i => { s with pt := s.pt.write i (wdata.setWidth 17) }
  | .ptHole => s
  | .ga i => { s with ga := s.ga.write i (cellOfCode (wdata.setWidth 2)) }
  | .gb i => { s with gb := s.gb.write i (cellOfCode (wdata.setWidth 2)) }
  | .ev i => { s with ev := s.ev.write i wdata }

/-- A Read transaction: the value and OKAY, or rdata 0 and SLVERR; it changes nothing but the reply (R50, R57, R61). -/
def portRead (s : State) (addr : HostAddr) (size : Nat) : State :=
  match accepted s addr size with
  | some t => { s with reply := .read .okay (readTarget s t) }
  | none => { s with reply := .read .slverr 0#32 }

/-- A Write transaction: its effect and OKAY, or no effect and SLVERR (R50, R57). -/
def portWrite (s : State) (addr : HostAddr) (size : Nat) (wdata : Word) : State :=
  match accepted s addr size with
  | some t => { writeTarget s wdata t with reply := .write .okay }
  | none => { s with reply := .write .slverr }

/-- The address of STATUS (R52). -/
def statusAddr : HostAddr := 0x0000C#20
/-- The address of CMD (R52). -/
def cmdAddr : HostAddr := 0x00010#20

/-- One reading of STATUS in the host's `wait` (R65, R81): while BUSY is 1 the engine moves and the host polls
again (log entry 17). -/
def portPoll (s : State) : State :=
  let t := portRead s statusAddr 4
  if busy s then { t with turns := .engine :: .poll :: s.turns } else t

end Sys2Proof.Machine
end

