-- ==== Sys2Proof/Machine/Step.lean ====
section
/-! DEFINITION. One step of the BCE: the engine's move, a host transaction, or a power-on reset (00_scope.md R13). -/

namespace Sys2Proof.Machine

/-- The engine's move (R83): it ends its initialisation, ends the command it holds, or stays idle. A command runs
whole in this one step (R85); a word that is not well-formed ends with BAD_COMMAND (R72, R75). -/
def engineStep (s : State) : Host.Outcome State Fault Refusal :=
  match s.engine with
  | .init => .next (finishInit s)
  | .idle => .next s
  | .busy w =>
    match decode w with
    | .ok i => exec i s
    | .error _ => .next (badCommand w s)

/-- One step: the first move of `turns`, or the engine's move when none is listed (log entry 1). -/
def step (s : State) : Host.Outcome State Fault Refusal :=
  match s.turns with
  | [] => engineStep s
  | .engine :: rest => engineStep { s with turns := rest }
  | .read addr size :: rest => .next (portRead { s with turns := rest } addr size)
  | .write addr size wdata :: rest => .next (portWrite { s with turns := rest } addr size wdata)
  | .poll :: rest => .next (portPoll { s with turns := rest })
  | .powerOn :: rest => .next (powerOn { s with turns := rest })

/-- The state in which the engine holds the command word `w mod 2^nbits` and moves next: the initialisation has run if
it had not yet, the word has been issued, and no other move stands before the engine's (log entry 2). -/
def State.withFetchWord (s : State) (nbits w : Nat) : State :=
  { issue (tableWord nbits w) (if s.engine = .init then finishInit s else s) with turns := [] }

end Sys2Proof.Machine
end

