-- ==== Sys2Proof/Machine/Asm.lean ====
section
/-! DEFINITION. BCE-asm, the spec's notation for host scripts (30_encoding.md R80, R81): each statement as the host
transactions it stands for. The value a script's `rd` expects is text and has no counterpart here. -/

namespace Sys2Proof.Machine

/-- A target of `wr` and `rd` (R80). -/
inductive AsmTarget where
  | reg (r : Reg)
  | cw (i : Nat)
  | bt (i : Nat)
  | ev (i : Nat)
  | pt (cl v : Nat)
  | ga (r c : Nat)
  | gb (r c : Nat)
  | absolute (addr : HostAddr)
  deriving DecidableEq, Repr

/-- The address of a target (R51, R52, R80). -/
def asmAddr : AsmTarget → HostAddr
  | .reg r => BitVec.ofNat Config.addrWidth (4 * regList.idxOf r)
  | .cw i => BitVec.ofNat Config.addrWidth (0x04000 + 4 * i)
  | .bt i => BitVec.ofNat Config.addrWidth (0x08000 + 4 * i)
  | .ev i => BitVec.ofNat Config.addrWidth (0xC0000 + 4 * i)
  | .pt cl v => BitVec.ofNat Config.addrWidth (0x10000 + 4 * ptIndex cl v)
  | .ga r c => BitVec.ofNat Config.addrWidth (0x40000 + 4 * cellIndex r c)
  | .gb r c => BitVec.ofNat Config.addrWidth (0x80000 + 4 * cellIndex r c)
  | .absolute addr => addr

/-- The group kinds by name (R148, R80). -/
inductive GroupKind where
  | start
  | stop
  | msg
  | guard
  | lead
  | group
  | check
  | supp
  deriving DecidableEq, Repr

/-- The code of a group kind (R148). -/
def groupKindCode : GroupKind → BitVec 4
  | .start => 0#4
  | .stop => 1#4
  | .msg => 2#4
  | .guard => 3#4
  | .lead => 4#4
  | .group => 5#4
  | .check => 6#4
  | .supp => 7#4

/-- A host script: the moves of the host it stands for, in order. -/
abbrev Script := List Turn

/-- `wr <target>, <value>` (R80). -/
def asmWr (t : AsmTarget) (value : Nat) : Script := [.write (asmAddr t) 4 (BitVec.ofNat Config.dataWidth value)]
/-- `rd <target>` (R80). -/
def asmRd (t : AsmTarget) : Script := [.read (asmAddr t) 4]
/-- A command statement: its command word is written to CMD (R80). -/
def asmCommand (i : Instr) : Script := [.write cmdAddr 4 (encode i)]
/-- `wait` (R81). -/
def asmWait : Script := [.poll]
/-- `clr` (R81). -/
def asmClr : Script := asmWr (.reg .status) 0x0000000C

/-- `load CW, i, v0, v1, …` (R81). -/
def asmLoadCw : Nat → List Nat → Script
  | _, [] => []
  | i, v :: vs => asmWr (.cw i) v ++ asmLoadCw (i + 1) vs

/-- `ecc200 N, E, B` (R81). -/
def asmEcc200 (n e b : Nat) : Script :=
  asmWr (.reg .len) n ++ asmWr (.reg .arg1) e ++ asmWr (.reg .arg2) b ++ asmCommand .rsEcc200 ++ asmWait
/-- `pdfecc N, L` (R81). -/
def asmPdfecc (n level : Nat) : Script :=
  asmWr (.reg .len) n ++ asmWr (.reg .arg1) level ++ asmCommand .pdfEcc ++ asmWait
/-- `check <m> N`, for the generate form of a checksum command (R81). -/
def asmCheck (m : Bool → Instr) (n : Nat) : Script :=
  asmWr (.reg .len) n ++ asmCommand (m false) ++ asmWait
/-- `verify <m> N`, for the verify form (R81). -/
def asmVerify (m : Bool → Instr) (n : Nat) : Script :=
  asmWr (.reg .len) n ++ asmCommand (m true) ++ asmWait
/-- `place nrow, ncol, N` (R81). -/
def asmPlace (nrow ncol n : Nat) : Script :=
  asmWr (.reg .len) n ++ asmWr (.reg .arg1) nrow ++ asmWr (.reg .arg2) ncol ++ asmCommand .dmPlace ++ asmWait
/-- `frame h, w, rv, rh` (R81). -/
def asmFrame (h w rv rh : Nat) : Script :=
  asmWr (.reg .arg1) h ++ asmWr (.reg .arg2) w ++ asmWr (.reg .arg3) ((rh <<< 16) ||| rv) ++
    asmCommand .dmFrame ++ asmWait
/-- `emit rows, cols`, and `emit.a rows, cols` for grid A (R81). -/
def asmEmit (selA : Bool) (rows cols : Nat) : Script :=
  asmWr (.reg .arg1) rows ++ asmWr (.reg .arg2) cols ++ asmCommand (.gridEmit selA) ++ asmWait
/-- `pdfrows r, c, L` (R81). -/
def asmPdfrows (r c level : Nat) : Script :=
  asmWr (.reg .len) (r * c) ++ asmWr (.reg .arg1) r ++ asmWr (.reg .arg2) c ++ asmWr (.reg .arg3) level ++
    asmCommand .pdfRows ++ asmWait
/-- `walk N, k`, and `walk.b N, k` with the first element black (R81). -/
def asmWalk (black1 : Bool) (n : Nat) (k : GroupKind) : Script :=
  asmWr (.reg .len) n ++ asmCommand (.barWalk black1 (groupKindCode k)) ++ asmWait

end Sys2Proof.Machine
end

