-- ==== Sys2Proof/Safety.lean ====
section
/-! DEFINITION. What a well-formed state is, and what counts as a safe run, in the terms statements use. -/

namespace Sys2Proof.Machine

/-- The indices of a RAM rise strictly: its one canonical form (log entry 5). -/
def Ram.sorted {α : Type} : Ram α → Bool
  | [] => true
  | [_] => true
  | p :: q :: rest => decide (p.1 < q.1) && Ram.sorted (q :: rest)

/-- Every listed index is below `depth`. -/
def Ram.below {α : Type} (m : Ram α) (depth : Nat) : Bool := m.all fun p => decide (p.1 < depth)

/-- Every listed PT index names an entry PT has: cluster 0 to 2 and codeword 0 to 928 (R37, R55). -/
def ptInRange (m : Ram (BitVec 17)) : Bool :=
  m.all fun p => decide (p.1 / 1024 < Config.pdfClusters) && decide (p.1 % 1024 < Config.pdfCwCount)

/-- The six RAMs have their canonical form and list only entries that exist (R37 to R41). -/
def Memory.wf (s : State) : Bool :=
  s.cw.sorted && s.cw.below Config.cwDepth &&
  s.ga.sorted && s.ga.below (Config.gridDim * Config.gridDim) &&
  s.gb.sorted && s.gb.below (Config.gridDim * Config.gridDim) &&
  s.ev.sorted && s.ev.below Config.evDepth &&
  s.bt.sorted && s.bt.below Config.bartabDepth &&
  s.pt.sorted && ptInRange s.pt

/-- The GF(256) tables are built exactly when the initialisation has run (R42, R183, R184). -/
def romsFollowMode (s : State) : Prop :=
  s.gf = if s.engine = .init then none else some gfTables

/-- While the engine is INIT or BUSY, DONE and ERR are 0 (R85, R184). -/
def flagsQuiet (s : State) : Prop := s.engine ≠ .idle → s.done = false ∧ s.err = false

/-- DONE stands only beside ERRCODE 0x00, and ERR only beside another code (R86, R88, R161). -/
def flagsMatchCode (s : State) : Prop :=
  (s.done = true → s.errcode = .none) ∧ (s.err = true → s.errcode ≠ .none)

/-- LASTOP is the opcode of the word the engine holds; during the initialisation LASTOP and ERRCODE are 0 (R21, R72,
R184). -/
def lastopFollowsMode (s : State) : Prop :=
  match s.engine with
  | .init => s.lastop = 0#8 ∧ s.errcode = .none
  | .idle => True
  | .busy w => s.lastop = w.extractLsb' 0 8

/-- The invariant of the machine. -/
def State.Inv (s : State) : Prop :=
  Memory.wf s = true ∧ romsFollowMode s ∧ flagsQuiet s ∧ flagsMatchCode s ∧ lastopFollowsMode s

/-- A step that goes on. -/
def Goes (o : Host.Outcome State Fault Refusal) : Prop := ∃ t, o = .next t

/-- Every entry of every RAM has been written since power-on, the premise under which no command faults (R49). -/
def fullyWritten (s : State) : Prop :=
  (∀ i, i < Config.cwDepth → (s.cw.read i).isSome = true) ∧
  (∀ i, i < Config.gridDim * Config.gridDim → (s.ga.read i).isSome = true) ∧
  (∀ i, i < Config.gridDim * Config.gridDim → (s.gb.read i).isSome = true) ∧
  (∀ i, i < Config.bartabDepth → (s.bt.read i).isSome = true) ∧
  (∀ cl v, cl < Config.pdfClusters → v < Config.pdfCwCount → (s.pt.read (ptIndex cl v)).isSome = true)

/-- A run that never stops: the machine goes on for each of `n` steps. -/
def SafeFor (n : Nat) (s : State) : Prop := Goes (Sys2Proof.core.run n s)

end Sys2Proof.Machine
end

