-- ==== Sys2Proof/Certificates/Slice0/Obligations.lean ====
section
/-! DEFINITION. The statements for the provers. Each one formalises rules of spec/ (named in its docstring) about the
machine; the words it is said in stand first, written from the rules and not from the machine's own functions
wherever the rule gives a formula of its own. -/

namespace Sys2Proof.Claims

open Sys2Proof Sys2Proof.Machine

/-! ## The words of the statements -/

/-- The number `n` in a 32-bit register. -/
def word (n : Nat) : Word := BitVec.ofNat 32 n

/-- The state a completed command leaves, when it wrote nothing else (R86, R87). -/
def doneState (s : State) (r0 r1 : Nat) : State :=
  { s with result0 := word r0, result1 := word r1, errcode := .none, done := true, engine := .idle }

/-- The state a command error leaves (R88). -/
def errState (s : State) (code : ErrCode) (r0 r1 : Nat) : State :=
  { s with result0 := word r0, result1 := word r1, errcode := code, err := true, engine := .idle }

/-- LEN holds the number of elements `xs`, and CW[0, N) holds them. -/
def CwHolds (s : State) (xs : List Nat) : Prop :=
  s.len.toNat = xs.length ∧ ∀ i, i < xs.length → (s.cw.read i).map BitVec.toNat = xs[i]?

/-- CW[i] is the first of the elements above `limit`: it holds `v`, and every earlier one is written and in range. -/
def FirstAbove (s : State) (limit i v : Nat) : Prop :=
  (∀ j, j < i → ∃ u, s.cw.read j = some u ∧ u.toNat ≤ limit) ∧
  (s.cw.read i).map BitVec.toNat = some v ∧ limit < v

/-- CW[i] is the first element nothing has written: every earlier one is written and at most `limit`. -/
def FirstUnwritten (s : State) (limit i : Nat) : Prop :=
  (∀ j, j < i → ∃ u, s.cw.read j = some u ∧ u.toNat ≤ limit) ∧ s.cw.read i = none

/-- What entry `i` of a RAM reads as, as a number; a cell by its host code (R56). -/
def entryOf (s : State) (name : RamName) (i : Nat) : Option Nat :=
  match name with
  | .cw => (s.cw.read i).map BitVec.toNat
  | .ga => (s.ga.read i).map (fun c => (codeOfCell c).toNat)
  | .gb => (s.gb.read i).map (fun c => (codeOfCell c).toNat)
  | .ev => (s.ev.read i).map BitVec.toNat
  | .bt => (s.bt.read i).map BitVec.toNat
  | .pt => (s.pt.read i).map BitVec.toNat

/-- The code of a cell in the low bits of a word (R56). -/
def codeWord : Cell → Word
  | .unset => 0#32
  | .set false => 2#32
  | .set true => 3#32

/-- The number of each error code in STATUS.ERRCODE, by the table of R161. -/
def codeNumber : ErrCode → Nat
  | .none => 0
  | .badCommand => 1
  | .length => 2
  | .range => 3
  | .eccShape => 4
  | .level => 5
  | .geometry => 6
  | .overlap => 7
  | .incomplete => 8
  | .cwUnderrun => 9
  | .evOverflow => 10
  | .table => 11
  | .mismatch => 12

/-- The registers a host writes and reads back (R24, R25, R27 to R31): the address, the bits the register has, and the
state with that one register changed. -/
def registerWrites (s : State) (wdata : Word) : List (Nat × Word × State) :=
  [(0x014, 0x1FFF#32, { s with len := wdata.extractLsb' 0 13 }),
   (0x018, 0xFFFFFFFF#32, { s with arg1 := wdata }),
   (0x01C, 0xFFFFFFFF#32, { s with arg2 := wdata }),
   (0x020, 0xFFFFFFFF#32, { s with arg3 := wdata }),
   (0x02C, 0x3FFF#32, { s with evWptr := wdata.extractLsb' 0 14 }),
   (0x030, 0x1FFFF#32, { s with pdfStart := wdata.extractLsb' 0 17 }),
   (0x034, 0x3FFFF#32, { s with pdfStop := wdata.extractLsb' 0 18 }),
   (0x038, 0x3#32, { s with c128w0 := wdata.getLsbD 0, rmlit := wdata.getLsbD 1 }),
   (0x03C, 0x7FF#32, { s with fcsInit := wdata.extractLsb' 0 11 })]

/-- The cells [0, rows) × [0, cols) of a grid hold `m`, true for DARK. -/
def GridHolds (g : Ram Cell) (rows cols : Nat) (m : Nat → Nat → Bool) : Prop :=
  ∀ r c, r < rows → c < cols → g.read (256 * r + c) = some (.set (m r c))

/-- The first cell of [0, rows) × [0, cols), in row-major order, that is not set is the UNSET cell (r, c). -/
def FirstUnset (g : Ram Cell) (rows cols r c : Nat) : Prop :=
  r < rows ∧ c < cols ∧ g.read (256 * r + c) = some .unset ∧
  ∀ y x, y < rows → x < cols → (y < r ∨ (y = r ∧ x < c)) → ∃ b, g.read (256 * y + x) = some (.set b)

/-- The first cell of [0, rows) × [0, cols), in row-major order, that nothing has written is (r, c): every earlier one is
LIGHT or DARK. -/
def FirstUnwrittenCell (g : Ram Cell) (rows cols r c : Nat) : Prop :=
  r < rows ∧ c < cols ∧ g.read (256 * r + c) = none ∧
  ∀ y x, y < rows → x < cols → (y < r ∨ (y = r ∧ x < c)) → ∃ b, g.read (256 * y + x) = some (.set b)

/-- What the six RAMs and EV_WPTR hold is the same in both states. -/
def SameRams (s t : State) : Prop :=
  t.cw = s.cw ∧ t.ga = s.ga ∧ t.gb = s.gb ∧ t.ev = s.ev ∧ t.bt = s.bt ∧ t.pt = s.pt ∧ t.evWptr = s.evWptr

/-- The registers and tables no command writes are the same in both states: the operand and configuration
registers, CTRL, LASTOP, the tables BT and PT, the ROMs; and the model's own `turns`, `reply` and `epoch`. -/
def SameInputs (s t : State) : Prop :=
  t.irqen = s.irqen ∧ t.lastop = s.lastop ∧ t.len = s.len ∧ t.arg1 = s.arg1 ∧ t.arg2 = s.arg2 ∧ t.arg3 = s.arg3 ∧
  t.pdfStart = s.pdfStart ∧ t.pdfStop = s.pdfStop ∧ t.c128w0 = s.c128w0 ∧ t.rmlit = s.rmlit ∧
  t.fcsInit = s.fcsInit ∧ t.bt = s.bt ∧ t.pt = s.pt ∧ t.gf = s.gf ∧
  t.turns = s.turns ∧ t.reply = s.reply ∧ t.epoch = s.epoch

/-- The command word's conditions of R75. -/
def WellFormedWord (w : Word) : Prop :=
  (w.extractLsb' 0 8).toNat ∈ [0x00, 0x01, 0x02, 0x10, 0x11, 0x12, 0x13, 0x20, 0x21, 0x22, 0x30, 0x31] ∧
  w.extractLsb' 9 3 = 0#3 ∧ w.extractLsb' 16 16 = 0#16 ∧
  ((w.extractLsb' 0 8).toNat ∉ [0x10, 0x11, 0x12, 0x13, 0x22, 0x31] → w.getLsbD 8 = false) ∧
  ((w.extractLsb' 0 8).toNat ≠ 0x31 → w.extractLsb' 12 4 = 0#4) ∧
  ((w.extractLsb' 0 8).toNat = 0x31 → w.getLsbD 15 = false)

/-- Byte address `a` lies in a window of R51. -/
def Mapped (a : Nat) : Prop :=
  a < 0x400 ∨ (0x4000 ≤ a ∧ a < 0x8000) ∨ (0x8000 ≤ a ∧ a < 0x8400) ∨ (0x10000 ≤ a ∧ a < 0x14000) ∨
  (0x40000 ≤ a ∧ a < 0xC0000) ∨ (0xC0000 ≤ a ∧ a < 0xC8000)

/-- The word at byte address `a` is ID, VERSION, CTRL, STATUS, PARAM0, PARAM1 or a hole of the REG window (R57 c). -/
def OpenWhileBusy (a : Nat) : Prop := a < 0x10 ∨ (0x40 ≤ a ∧ a < 0x400)

/-- The three cases of R57 in which a transaction gets SLVERR. -/
def Refused (s : State) (addr : HostAddr) (size : Nat) : Prop :=
  ¬ Mapped addr.toNat ∨ (size ≠ 4 ∨ addr.toNat % 4 ≠ 0) ∨ (s.engine ≠ .idle ∧ ¬ OpenWhileBusy addr.toNat)

/-- The registers hold their reset values (R48), by register. -/
def RegistersReset (t : State) : Prop :=
  t.irqen = false ∧ t.done = false ∧ t.err = false ∧ t.errcode = .none ∧ t.lastop = 0#8 ∧ t.len = 0#13 ∧
  t.arg1 = 0#32 ∧ t.arg2 = 0#32 ∧ t.arg3 = 0#32 ∧ t.result0 = 0#32 ∧ t.result1 = 0#32 ∧ t.evWptr = 0#14 ∧
  t.pdfStart = 0x1FEA8#17 ∧ t.pdfStop = 0x3FA29#18 ∧ t.c128w0 = true ∧ t.rmlit = false ∧ t.fcsInit = 0x7FF#11

/-- v · x in GF(256), bytes as polynomials over GF(2) modulo x^8 + x^5 + x^3 + x^2 + 1 (R112). -/
def timesX (v : BitVec 8) : BitVec 8 :=
  if v.getLsbD 7 then (v <<< 1) ^^^ 0x2D#8 else v <<< 1

/-- v · x^n (R112). -/
def timesXPow (v : BitVec 8) : Nat → BitVec 8
  | 0 => v
  | n + 1 => timesX (timesXPow v n)

/-- The product of two bytes as polynomials modulo 0x12D (R112). -/
def fieldMul (a b : BitVec 8) : BitVec 8 :=
  (List.range 8).foldl (fun acc i => if b.getLsbD i then acc ^^^ timesXPow a i else acc) 0#8

/-- The value at `x` of the polynomial with these coefficients, the highest degree first, over GF(256). -/
def evalField (x : BitVec 8) (coeffs : List (BitVec 8)) : BitVec 8 :=
  coeffs.foldl (fun acc c => fieldMul acc x ^^^ c) 0#8

/-- The value at `x`, modulo 929, of the polynomial with these coefficients, the highest degree first. -/
def eval929 (x : Nat) (coeffs : List Nat) : Nat := coeffs.foldl (fun acc c => (acc * x + c) % 929) 0

/-- CW[p] as a byte, 0 where nothing is written. -/
def cwByte (t : State) (p : Nat) : BitVec 8 := ((t.cw.read p).getD 0#16).setWidth 8

/-- CW[p] as a number, 0 where nothing is written. -/
def cwNum (t : State) (p : Nat) : Nat := ((t.cw.read p).getD 0#16).toNat

/-- The codewords of block `b` of `B`: its data codewords CW[d], d mod B = b, and its ECC codewords CW[N + b + jB] (R116,
R120). -/
def blockWords (t : State) (N B k b : Nat) : List (BitVec 8) :=
  (((List.range N).filter (fun d => d % B = b)) ++ (List.range k).map (fun j => N + b + j * B)).map (cwByte t)

/-- RS_ECC200's operands have a legal shape and fit the buffer (R117). -/
def EccShape (N E B : Nat) : Prop := 0 < B ∧ 0 < E ∧ E % B = 0 ∧ E / B ≤ 255 ∧ N + E ≤ 4096

/-- The mod-10 sum of the digits: weight 3 at odd positions counted from the right, 1-indexed, and 1 at even ones
(R100). -/
def sum10 (xs : List Nat) : Nat :=
  ((List.range xs.length).map fun i => xs.getD i 0 * (if (xs.length - i) % 2 = 1 then 3 else 1)).sum

/-- The mod-10 check digit (R100). -/
def check10 (xs : List Nat) : Nat := (10 - sum10 xs % 10) % 10

/-- The mod-103 check value with weight W0 at position 0 (R101). -/
def check103 (w0 : Nat) (xs : List Nat) : Nat :=
  ((List.range xs.length).map fun i => xs.getD i 0 * (if i = 0 then w0 else i)).sum % 103

/-- The row value of a Royal Mail character in the default table (R102, R104). -/
def rowOf (x : Nat) : Nat := x / 6 + 1
/-- The column value of a Royal Mail character in the default table (R102, R104). -/
def colOf (x : Nat) : Nat := x % 6 + 1

/-- The Royal Mail check index of the characters (R103). -/
def check6 (literal : Bool) (xs : List Nat) : Nat :=
  if literal then ((xs.map rowOf).sum % 6) * 6 + (xs.map colOf).sum % 6
  else (((xs.map rowOf).sum + 5) % 6) * 6 + ((xs.map colOf).sum + 5) % 6

/-- The bits n−1 down to 0 of `b`, most significant first (R105). -/
def bitsMsbFirst (n b : Nat) : List Bool := (List.range n).map fun i => b.testBit (n - 1 - i)

/-- The 102-bit input stream of the FCS: bits 5 to 0 of byte 0, then all bits of bytes 1 to 12 (R105). -/
def fcsStream (bytes : List Nat) : List Bool :=
  bitsMsbFirst 6 (bytes.getD 0 0) ++ (bytes.drop 1).flatMap (bitsMsbFirst 8)

/-- The 11-bit FCS register after one input bit, polynomial 0x0F35 (R105). -/
def fcsBit (f : Nat) (bit : Bool) : Nat :=
  if f.testBit 10 != bit then ((2 * f) ^^^ 0x0F35) % 2048 else (2 * f) % 2048

/-- The frame check sequence of 13 bytes (R105, R106). -/
def fcs (init : Nat) (bytes : List Nat) : Nat := (fcsStream bytes).foldl fcsBit init

/-- The mapping-matrix sizes of the ECC200 symbols with at most 22 rows and 32 columns (R126): 13 of the 30, among them
the four with a corner fill and one for each of the four corner patterns (R136). -/
def smallEcc200Sizes : List (Nat × Nat) :=
  [(8, 8), (10, 10), (12, 12), (14, 14), (16, 16), (18, 18), (20, 20), (22, 22),
   (6, 16), (6, 28), (10, 24), (10, 32), (14, 32)]

/-- A pattern of DM_PLACE: the standard pattern with its bottom-right cell at (r, c) (R130), or one of the four corner
patterns (R132). -/
inductive Pattern where
  | utah (r c : Nat)
  | corner1
  | corner2
  | corner3
  | corner4

/-- The eight cells of a pattern in an R × C matrix before the wrap, for bits 1 to 8, by the tables of R130 and R132. -/
def Pattern.cells (R C : Int) : Pattern → List (Int × Int)
  | .utah r c =>
    [(-2, -2), (-2, -1), (-1, -2), (-1, -1), (-1, 0), (0, -2), (0, -1), (0, 0)].map
      fun o : Int × Int => ((r : Int) + o.1, (c : Int) + o.2)
  | .corner1 =>
    [(R - 1, 0), (R - 1, 1), (R - 1, 2), (0, C - 2), (0, C - 1), (1, C - 1), (2, C - 1), (3, C - 1)]
  | .corner2 =>
    [(R - 3, 0), (R - 2, 0), (R - 1, 0), (0, C - 4), (0, C - 3), (0, C - 2), (0, C - 1), (1, C - 1)]
  | .corner3 =>
    [(R - 3, 0), (R - 2, 0), (R - 1, 0), (0, C - 2), (0, C - 1), (1, C - 1), (2, C - 1), (3, C - 1)]
  | .corner4 =>
    [(R - 1, 0), (R - 1, C - 1), (0, C - 3), (0, C - 2), (0, C - 1), (1, C - 3), (1, C - 2), (1, C - 1)]

/-- The wrap of a negative coordinate into the matrix, the row's first (R129). -/
def wrapped (R C : Nat) (r c : Int) : Int × Int :=
  let r1 := if r < 0 then r + R else r
  let c1 := if r < 0 then c + 4 - ((R + 4) % 8 : Nat) else c
  (if c1 < 0 then r1 + 4 - ((C + 4) % 8 : Nat) else r1, if c1 < 0 then c1 + C else c1)

/-- The matrix sizes and anchors of R133: a standard pattern stands at a cell the cursor visits, on a diagonal r + c of 4
modulo 8 (a sweep up) with an even column or of 0 modulo 8 (a sweep down) with an odd one; corner patterns 2 to 4 need
their column counts. -/
def Pattern.allowed (R C : Nat) : Pattern → Prop
  | .utah r c => r < R ∧ c < C ∧ (((r + c) % 8 = 4 ∧ c % 2 = 0) ∨ ((r + c) % 8 = 0 ∧ c % 2 = 1))
  | .corner1 => True
  | .corner2 => C % 4 ≠ 0
  | .corner3 => C % 8 = 4
  | .corner4 => C % 8 = 0

/-- The place of a pattern in the cursor's order (R133): by diagonals; on a diagonal a corner pattern first, then the
standard patterns from left to right in a sweep up and from right to left in a sweep down. -/
def Pattern.rank (R : Nat) : Pattern → Nat
  | .utah r c => 1024 * (r + c) + (if (r + c) % 8 = 4 then 1 + c else 512 - c)
  | .corner1 => 1024 * R
  | .corner2 => 1024 * (R - 2)
  | .corner3 => 1024 * (R - 2)
  | .corner4 => 1024 * (R + 6)

/-- Bit `bit` of codeword `pos` lies at the wrapped cell that the pattern gives it (R129, R130). -/
def BitAt (sheet : List (List Mark)) (R C pos bit : Nat) (cell : Int × Int) : Prop :=
  ∃ r c : Nat, wrapped R C cell.1 cell.2 = ((r : Int), (c : Int)) ∧ r < R ∧ c < C ∧
    markAt sheet r c = .codeword pos bit

/-- The corner fill: DARK at (R−1, C−1) and (R−2, C−2), LIGHT at (R−1, C−2) and (R−2, C−1) (R135). -/
def CornerFilled (sheet : List (List Mark)) (R C : Nat) : Prop :=
  2 ≤ R ∧ 2 ≤ C ∧ markAt sheet (R - 1) (C - 1) = .fixed true ∧ markAt sheet (R - 2) (C - 2) = .fixed true ∧
  markAt sheet (R - 1) (C - 2) = .fixed false ∧ markAt sheet (R - 2) (C - 1) = .fixed false

/-- The modules an ADD_BAR event stands for: WIDTH in bits 11 to 0, BLACK in bit 12 (R93). -/
def barModules (e : Word) : List Bool := List.replicate (e.toNat % 4096) (e.getLsbD 12)

/-- The next state is the old one with `evs` written from EV_WPTR on, EV_WPTR advanced by their number, and RESULT0 that
number (R92). -/
def Emitted (s t : State) (evs : List Word) : Prop :=
  t = { doneState s evs.length 0 with ev := t.ev, evWptr := BitVec.ofNat 14 (s.evWptr.toNat + evs.length) } ∧
  ∀ i, t.ev.read i =
    if s.evWptr.toNat ≤ i ∧ i < s.evWptr.toNat + evs.length then evs[i - s.evWptr.toNat]? else s.ev.read i

/-- The ADD_BAR words of a list of modules, by R94's runs. -/
def barGroup (kind label : Nat) (modules : List Bool) : List Word :=
  [word (0x10000000 + kind * 0x1000000 + label)] ++ bars modules ++ [0x20000000#32]

/-- The events of one grid row (R141). -/
def gridRow (cols : Nat) (m : Nat → Nat → Bool) (y : Nat) : List Word :=
  [0x30000000#32] ++ barGroup 2 y ((List.range cols).map (m y)) ++ [0x40000000#32]

/-- The modules of an n-bit pattern, the most significant bit leftmost (R94). -/
def modulesOf (n p : Nat) : List Bool := (List.range n).map fun i => p.testBit (n - 1 - i)

/-- The left row indicator, by the table of R149. -/
def leftOf (y r c level : Nat) : Nat :=
  match y % 3 with
  | 0 => 30 * (y / 3) + (r - 1) / 3
  | 1 => 30 * (y / 3) + 3 * level + (r - 1) % 3
  | _ => 30 * (y / 3) + (c - 1)

/-- The right row indicator, by the table of R149. -/
def rightOf (y r c level : Nat) : Nat :=
  match y % 3 with
  | 0 => 30 * (y / 3) + (c - 1)
  | 1 => 30 * (y / 3) + (r - 1) / 3
  | _ => 30 * (y / 3) + 3 * level + (r - 1) % 3

/-- The codewords of PDF417 row y, indicators included (R150). -/
def rowOfSymbol (xs : List Nat) (r c level y : Nat) : List Nat :=
  [leftOf y r c level] ++ (List.range c).map (fun x => xs.getD (y * c + x) 0) ++ [rightOf y r c level]

/-- The events of PDF417 row y with the patterns `pat` (R150). -/
def pdfRow (s : State) (pat : Nat → Nat → Nat) (xs : List Nat) (r c level y : Nat) : List Word :=
  [0x30000000#32] ++ barGroup 0 0 (modulesOf 17 s.pdfStart.toNat) ++
    (rowOfSymbol xs r c level y).flatMap (fun v => barGroup 2 v (modulesOf 17 (pat (y % 3) v))) ++
    barGroup 1 0 (modulesOf 18 s.pdfStop.toNat) ++ [0x40000000#32]

/-- A bar-width table entry with these element widths: 1 to 7 of them, each 1 to 15 (R153). -/
def EntryHolds (t : Word) (widths : List Nat) : Prop :=
  1 ≤ widths.length ∧ widths.length ≤ 7 ∧ t.toNat % 16 = widths.length ∧
  ∀ e, e < widths.length → widths[e]? = some (t.toNat / 2 ^ (4 * e + 4) % 16) ∧ t.toNat / 2 ^ (4 * e + 4) % 16 ≠ 0

/-- The ADD_BARs of the widths in alternating colours (R154). -/
def alternating (black1 : Bool) (widths : List Nat) : List Word :=
  (List.range widths.length).map fun e =>
    word ((if (e % 2 = 0) = (black1 = true) then 0x1000 else 0) + widths.getD e 0)

/-- The bar group of one table index (R154). -/
def walkGroup (kind : Nat) (black1 : Bool) (x : Nat) (widths : List Nat) : List Word :=
  [word (0x10000000 + kind * 0x1000000 + x)] ++ alternating black1 widths ++ [0x20000000#32]

/-- Entry `i` of a RAM lies in the output region of an abandoned command (R182); for an emitting command, T is the event
count of its rule, and where T depends on an unwritten entry every event entry from EV_WPTR on counts (log entry 9). -/
def InRegion (i : Instr) (s : State) (name : RamName) (idx : Nat) : Prop :=
  match i, name with
  | .rsEcc200, .cw => s.len.toNat ≤ idx ∧ idx < s.len.toNat + s.arg1.toNat ∧ idx < 4096
  | .pdfEcc, .cw => s.len.toNat ≤ idx ∧ idx < s.len.toNat + 2 ^ (s.arg1.toNat + 1) ∧ idx < 4096
  | .dmPlace, .ga => idx / 256 < s.arg1.toNat ∧ idx % 256 < s.arg2.toNat ∧ idx < 65536
  | .dmFrame, .gb =>
    idx / 256 < (s.arg3.toNat % 65536) * (s.arg1.toNat + 2) ∧
    idx % 256 < (s.arg3.toNat / 65536) * (s.arg2.toNat + 2) ∧ idx < 65536
  | .gridEmit selA, .ev => inPlan (gridEmitPlan selA s) s.evWptr.toNat idx
  | .pdfRows, .ev => inPlan (pdfRowsPlan s) s.evWptr.toNat idx
  | .barWalk black1 kind, .ev => inPlan (barWalkPlan black1 kind s) s.evWptr.toNat idx
  | _, _ => False
where
  /-- EV[e, min(e + T, EV_DEPTH)) for the event count of a plan. -/
  inPlan (plan : Work EventPlan) (e idx : Nat) : Prop :=
    match plan with
    | .ok p => e ≤ idx ∧ idx < e + p.count ∧ idx < 8192
    | .error (.error _ _ _) => False
    | .error (.fault _) => e ≤ idx ∧ idx < 8192

/-- The reset, status and control moves aside, a host access that leaves a running command alone: any Read, a poll, or a
Write that does not start a soft reset (R64, R84). -/
def LeavesCommandAlone (turn : Turn) : Prop :=
  match turn with
  | .engine => False
  | .read _ _ => True
  | .write addr _ wdata => addr = 0x00008#20 → wdata.getLsbD 0 = false
  | .poll => True
  | .powerOn => False

/-- The state with other values in everything a command may not read (R46, R90): the results and flags of earlier
commands, CTRL, and the model's own bookkeeping of moves and replies. -/
def otherHistory (s : State) (r0 r1 : Word) (code : ErrCode) (done err irqen : Bool) (lastop : BitVec 8)
    (turns : List Turn) (reply : Reply) (epoch : Nat) : State :=
  { s with result0 := r0, result1 := r1, errcode := code, done := done, err := err, irqen := irqen,
           lastop := lastop, turns := turns, reply := reply, epoch := epoch }

/-- The elements CW[0, N), N from LEN. -/
def elementsOf (s : State) : List Nat := (List.range s.len.toNat).map (cwNum s)

/-- LEN and the elements CW[0, N) are the same in both states. -/
def SameElements (s u : State) : Prop :=
  s.len = u.len ∧ ∀ i, i < s.len.toNat → s.cw.read i = u.cw.read i

/-- The cells [0, rows) × [0, cols) of two grids are the same. -/
def SameCells (g h : Ram Cell) (rows cols : Nat) : Prop :=
  ∀ r c, r < rows → r < 256 → c < cols → c < 256 → g.read (256 * r + c) = h.read (256 * r + c)

/-- Both states hold the same in every register, RAM entry and table that the command reads: the registers by R77's table,
the RAM entries by the command's rule. Whatever R77 gives a dash is left free. For DM_PLACE the model's count of free draws is
the same too, since it names the values of a dynamic error's region (log entry 8). -/
def ReadsAgree (i : Instr) (s u : State) : Prop :=
  match i with
  | .nop => True
  | .rsEcc200 => SameElements s u ∧ s.arg1 = u.arg1 ∧ s.arg2 = u.arg2 ∧ s.gf = u.gf
  | .pdfEcc => SameElements s u ∧ s.arg1 = u.arg1
  | .ckMod10 _ => SameElements s u
  | .ckMod103 _ => SameElements s u ∧ s.c128w0 = u.c128w0
  | .ckMod6 _ => SameElements s u ∧ s.rmlit = u.rmlit
  | .ckFcs _ => SameElements s u ∧ s.fcsInit = u.fcsInit
  | .dmPlace => SameElements s u ∧ s.arg1 = u.arg1 ∧ s.arg2 = u.arg2 ∧ s.draws = u.draws
  | .dmFrame =>
    s.arg1 = u.arg1 ∧ s.arg2 = u.arg2 ∧ s.arg3 = u.arg3 ∧
    SameCells s.ga u.ga (s.arg3.toNat % 65536 * s.arg1.toNat) (s.arg3.toNat / 65536 * s.arg2.toNat)
  | .gridEmit selA =>
    s.arg1 = u.arg1 ∧ s.arg2 = u.arg2 ∧ s.evWptr = u.evWptr ∧
    SameCells (if selA then s.ga else s.gb) (if selA then u.ga else u.gb) s.arg1.toNat s.arg2.toNat
  | .pdfRows =>
    SameElements s u ∧ s.arg1 = u.arg1 ∧ s.arg2 = u.arg2 ∧ s.arg3 = u.arg3 ∧ s.pdfStart = u.pdfStart ∧
    s.pdfStop = u.pdfStop ∧ s.evWptr = u.evWptr ∧
    ∀ y v, y < s.arg1.toNat →
      v ∈ rowOfSymbol (elementsOf s) s.arg1.toNat s.arg2.toNat s.arg3.toNat y →
      s.pt.read ((y % 3) * 1024 + v) = u.pt.read ((y % 3) * 1024 + v)
  | .barWalk _ _ =>
    SameElements s u ∧ s.evWptr = u.evWptr ∧
    ∀ j x, j < s.len.toNat → s.cw.read j = some x → s.bt.read x.toNat = u.bt.read x.toNat

/-- The command ends alike from both states: with the same results and error code, EV_WPTR and every RAM entry written
with the same value in both or left as it was in both; or with the same fault. -/
def EndsAlike (i : Instr) (s u : State) : Prop :=
  match exec i s, exec i u with
  | .next t, .next v =>
    t.result0 = v.result0 ∧ t.result1 = v.result1 ∧ t.errcode = v.errcode ∧
    (t.evWptr = v.evWptr ∨ (t.evWptr = s.evWptr ∧ v.evWptr = u.evWptr)) ∧
    ∀ name idx, entryOf t name idx = entryOf v name idx ∨
      (entryOf t name idx = entryOf s name idx ∧ entryOf v name idx = entryOf u name idx)
  | .fault f, .fault g => f = g
  | _, _ => False

/-- What a command delivers: its results, its error code, EV_WPTR and the RAMs, or the fault it stops with. -/
def outputsOf (o : Host.Outcome State Fault Refusal) :
    Option (Word × Word × ErrCode × BitVec 14 × Ram (BitVec 16) × Ram Cell × Ram Cell × Ram Word) ⊕ Fault :=
  match o with
  | .next t => .inl (some (t.result0, t.result1, t.errcode, t.evWptr, t.cw, t.ga, t.gb, t.ev))
  | .fault f => .inr f
  | .refused _ => .inl none

end Sys2Proof.Claims

open Sys2Proof Sys2Proof.Machine Sys2Proof.Claims

/-! ## Encoding and decoding (30_encoding.md) -/

/-- A few command words, from R71's opcodes and R80's examples, decode to the commands they stand for. -/
def Obligations.SampleWordsDecode : Prop :=
  decode 0x00000000#32 = .ok .nop ∧ decode 0x00000001#32 = .ok .rsEcc200 ∧
  decode 0x00000110#32 = .ok (.ckMod10 true) ∧ decode 0x00000122#32 = .ok (.gridEmit true) ∧
  decode 0x00003131#32 = .ok (.barWalk true 3#4)

/-- Decoding and encoding agree in both directions: a word decodes to a command exactly when the command is well-formed
and the word is its command word (R70, R71, R73 to R75). No bit of a command word is dropped. -/
def Obligations.DecodeIffCommandWord : Prop :=
  ∀ (w : Word) (i : Instr), decode w = .ok i ↔ (i.wellFormed = true ∧ encode i = w)

/-- R75: a word that meets the conditions of the rule runs its command; any other word ends at once with BAD_COMMAND,
RESULT0 the word and RESULT1 0, and nothing else changes. -/
def Obligations.IllFormedWordEndsWithBadCommand : Prop :=
  ∀ (s : State) (w : Word), s.engine = .busy w →
    (WellFormedWord w → ∃ i, decode w = .ok i ∧ engineStep s = exec i s) ∧
    (¬ WellFormedWord w → engineStep s = .next (errState s .badCommand w.toNat 0))

/-- When the engine holds a word that decodes to `i` and it moves next, the step is `exec i` (R72, R85); the one thing
a step adds around exec is taking the engine's move off the list of moves, which is the model's own (log entry 1). In
mode IDLE the engine's move changes nothing: it never starts work by itself (R83, R185). -/
def Obligations.StepRunsDecodedCommand : Prop :=
  (∀ (s : State) (w : Word) (i : Instr) (rest : List Turn), s.engine = .busy w → decode w = .ok i →
    (s.turns = [] → step s = exec i s) ∧
    (s.turns = .engine :: rest → step s = exec i { s with turns := rest })) ∧
  (∀ (s : State) (rest : List Turn), s.engine = .idle →
    (s.turns = [] → step s = .next s) ∧
    (s.turns = .engine :: rest → step s = .next { s with turns := rest }))

/-- R72: a CMD write while the engine is IDLE issues the word: LASTOP takes its opcode, DONE and ERR are cleared, and
the engine is BUSY with it. While the engine is INIT or BUSY the write gets SLVERR and issues nothing. -/
def Obligations.CmdWriteIssuesOnlyWhenIdle : Prop :=
  ∀ (s : State) (w : Word) (rest : List Turn), s.turns = .write 0x00010#20 4 w :: rest →
    (s.engine = .idle → step s = .next
      { s with turns := rest, lastop := w.extractLsb' 0 8, done := false, err := false,
               engine := .busy w, reply := .write .okay }) ∧
    (s.engine ≠ .idle → step s = .next { s with turns := rest, reply := .write .slverr })

/-! ## The host port (20_memory.md) and the registers (10_state.md) -/

/-- R57: a transaction gets SLVERR in the three cases of the rule and only in these; a Read with SLVERR returns 0, a Write
with SLVERR changes no state, and neither sets a STATUS bit. -/
def Obligations.SlverrExactlyWhenRefused : Prop :=
  ∀ (s : State) (addr : HostAddr) (size : Nat) (wdata : Word),
    (Refused s addr size →
      portRead s addr size = { s with reply := .read .slverr 0#32 } ∧
      portWrite s addr size wdata = { s with reply := .write .slverr }) ∧
    (¬ Refused s addr size →
      (∃ v, portRead s addr size = { s with reply := .read .okay v }) ∧
      (portWrite s addr size wdata).reply = .write .okay)

/-- CWBUF (R53): a write stores the low 16 bits in CW[idx] and nothing else changes; a read returns the entry,
zero-extended. -/
def Obligations.CodewordBufferWindow : Prop :=
  ∀ (s : State) (i : Nat) (wdata : Word) (v : BitVec 16), s.engine = .idle → i < 4096 →
    (∃ t, portWrite s (BitVec.ofNat 20 (0x04000 + 4 * i)) 4 wdata = t ∧
      t = { s with cw := t.cw, reply := .write .okay } ∧
      ∀ j, t.cw.read j = if j = i then some (wdata.extractLsb' 0 16) else s.cw.read j) ∧
    (s.cw.read i = some v →
      (portRead s (BitVec.ofNat 20 (0x04000 + 4 * i)) 4).reply = .read .okay (v.setWidth 32))

/-- BARTAB and EVBUF (R54, R58): a write stores the word in BT[idx] or EV[idx] and nothing else changes; a read returns
the entry. -/
def Obligations.BarTableAndEventWindows : Prop :=
  ∀ (s : State) (wdata v : Word), s.engine = .idle →
    (∀ i, i < 256 →
      (∃ t, portWrite s (BitVec.ofNat 20 (0x08000 + 4 * i)) 4 wdata = t ∧
        t = { s with bt := t.bt, reply := .write .okay } ∧
        ∀ j, t.bt.read j = if j = i then some wdata else s.bt.read j) ∧
      (s.bt.read i = some v →
        (portRead s (BitVec.ofNat 20 (0x08000 + 4 * i)) 4).reply = .read .okay v)) ∧
    (∀ i, i < 8192 →
      (∃ t, portWrite s (BitVec.ofNat 20 (0xC0000 + 4 * i)) 4 wdata = t ∧
        t = { s with ev := t.ev, reply := .write .okay } ∧
        ∀ j, t.ev.read j = if j = i then some wdata else s.ev.read j) ∧
      (s.ev.read i = some v →
        (portRead s (BitVec.ofNat 20 (0xC0000 + 4 * i)) 4).reply = .read .okay v))

/-- PDFTAB (R55): for cl ≤ 2 and v < 929 a write stores the low 17 bits in PT[cl][v] and a read returns the entry,
zero-extended; for any other index of the window a write is ignored and a read returns 0, with OKAY. -/
def Obligations.PatternTableWindow : Prop :=
  ∀ (s : State) (cl v : Nat) (wdata : Word) (p : BitVec 17), s.engine = .idle → cl < 4 → v < 1024 →
    (cl ≤ 2 ∧ v < 929 →
      (∃ t, portWrite s (BitVec.ofNat 20 (0x10000 + 4 * (cl * 1024 + v))) 4 wdata = t ∧
        t = { s with pt := t.pt, reply := .write .okay } ∧
        ∀ j, t.pt.read j = if j = cl * 1024 + v then some (wdata.extractLsb' 0 17) else s.pt.read j) ∧
      (s.pt.read (cl * 1024 + v) = some p →
        (portRead s (BitVec.ofNat 20 (0x10000 + 4 * (cl * 1024 + v))) 4).reply = .read .okay (p.setWidth 32))) ∧
    (¬ (cl ≤ 2 ∧ v < 929) →
      portWrite s (BitVec.ofNat 20 (0x10000 + 4 * (cl * 1024 + v))) 4 wdata = { s with reply := .write .okay } ∧
      portRead s (BitVec.ofNat 20 (0x10000 + 4 * (cl * 1024 + v))) 4 = { s with reply := .read .okay 0#32 })

/-- GRIDA and GRIDB (R56): a read returns the cell's code, 0 for UNSET, 2 for LIGHT and 3 for DARK; every accepted read
returns one of these, of a cell nothing has written too (its value is free, log entry 7), and so never 1; a write stores
LIGHT for 0b10, DARK for 0b11 and UNSET for 0b00 and 0b01 in cell (r, c), and nothing else changes. -/
def Obligations.GridWindows : Prop :=
  ∀ (s : State) (r c : Nat) (wdata : Word) (v : Cell), s.engine = .idle → r < 256 → c < 256 →
    (s.ga.read (256 * r + c) = some v →
      (portRead s (BitVec.ofNat 20 (0x40000 + 4 * (256 * r + c))) 4).reply = .read .okay (codeWord v)) ∧
    (s.gb.read (256 * r + c) = some v →
      (portRead s (BitVec.ofNat 20 (0x80000 + 4 * (256 * r + c))) 4).reply = .read .okay (codeWord v)) ∧
    (∀ base ∈ [0x40000, 0x80000], ∃ code ∈ [0#32, 2#32, 3#32],
      (portRead s (BitVec.ofNat 20 (base + 4 * (256 * r + c))) 4).reply = .read .okay code) ∧
    (∃ t, portWrite s (BitVec.ofNat 20 (0x40000 + 4 * (256 * r + c))) 4 wdata = t ∧
      t = { s with ga := t.ga, reply := .write .okay } ∧
      ∀ j, t.ga.read j = if j = 256 * r + c then
        some (if wdata.toNat % 4 = 2 then .set false else if wdata.toNat % 4 = 3 then .set true else .unset)
        else s.ga.read j) ∧
    (∃ t, portWrite s (BitVec.ofNat 20 (0x80000 + 4 * (256 * r + c))) 4 wdata = t ∧
      t = { s with gb := t.gb, reply := .write .okay } ∧
      ∀ j, t.gb.read j = if j = 256 * r + c then
        some (if wdata.toNat % 4 = 2 then .set false else if wdata.toNat % 4 = 3 then .set true else .unset)
        else s.gb.read j)

/-- What a write to each register of the REG window does in mode IDLE (R18 to R20, R23 to R33, R36, R61): it changes that
register and the reply alone, and the register then reads as the bits it has of the word written, its other bits 0; a
write to a read-only register or a hole changes nothing. CMD reads as 0, and a read changes nothing but the reply.
CTRL is written with bit 0 = 0 here; STATUS and the write to CMD have statements of their own. -/
def Obligations.RegisterReadsAfterWrite : Prop :=
  ∀ (s : State) (wdata : Word), s.engine = .idle →
    (∀ a mask t, (a, mask, t) ∈ registerWrites s wdata →
      portWrite s (BitVec.ofNat 20 a) 4 wdata = { t with reply := .write .okay } ∧
      (portRead (portWrite s (BitVec.ofNat 20 a) 4 wdata) (BitVec.ofNat 20 a) 4).reply =
        .read .okay (wdata &&& mask)) ∧
    (∀ a v, (a, v) ∈ [(0x000, 0x42433445#32), (0x004, 0x00000001#32), (0x024, s.result0), (0x028, s.result1),
        (0x040, 0x20001000#32), (0x044, 0x01000100#32)] →
      portWrite s (BitVec.ofNat 20 a) 4 wdata = { s with reply := .write .okay } ∧
      (portRead s (BitVec.ofNat 20 a) 4).reply = .read .okay v) ∧
    (∀ a, 0x048 ≤ a → a < 0x400 → a % 4 = 0 →
      portWrite s (BitVec.ofNat 20 a) 4 wdata = { s with reply := .write .okay } ∧
      (portRead s (BitVec.ofNat 20 a) 4).reply = .read .okay 0#32) ∧
    portRead s 0x00010#20 4 = { s with reply := .read .okay 0#32 } ∧
    (wdata.getLsbD 0 = false →
      portWrite s 0x00008#20 4 wdata = { s with irqen := wdata.getLsbD 1, reply := .write .okay } ∧
      (portRead (portWrite s 0x00008#20 4 wdata) 0x00008#20 4).reply = .read .okay (wdata &&& 0x2#32))

/-- R22: in every engine mode a host write to STATUS clears DONE when bit 2 of the data is 1 and ERR when bit 3 is 1, and
changes no other bit; an accepted command word clears both. -/
def Obligations.StatusWriteOneToClear : Prop :=
  (∀ (s : State) (wdata : Word), portWrite s 0x0000C#20 4 wdata =
    { s with done := (if wdata.getLsbD 2 then false else s.done),
             err := (if wdata.getLsbD 3 then false else s.err), reply := .write .okay }) ∧
  (∀ (s : State) (w : Word), s.engine = .idle →
    (portWrite s 0x00010#20 4 w).done = false ∧ (portWrite s 0x00010#20 4 w).err = false)

/-- STATUS reads READY, BUSY, DONE, ERR, ERRCODE and LASTOP in bits 0, 1, 2, 3, 15 to 8 and 23 to 16, and 0 elsewhere
(R21), with READY and BUSY as the engine mode gives them (R45) and ERRCODE one of the thirteen numbers of R161. -/
def Obligations.StatusFields : Prop :=
  ∀ (s : State), (portRead s 0x0000C#20 4).reply = .read .okay (statusWord s) ∧
    (statusWord s).toNat =
      (if s.engine = .init then 0 else 1) + (if s.engine = .idle then 0 else 2) + (if s.done then 4 else 0) +
        (if s.err then 8 else 0) + 256 * codeNumber s.errcode + 65536 * s.lastop.toNat

/-- IRQ (R47, R85, R167, R168): it is 0 from the issue of a command on, in every state of mode BUSY or INIT that meets the
invariant; it follows CTRL.IRQEN when the command has ended; a STATUS write of 0xC lowers it; and a CTRL write with bit
0 = 0 makes it bit 1 of the data where DONE or ERR stands, and 0 where neither does, in every mode. -/
def Obligations.IrqFollowsCommandEnd : Prop :=
  (∀ (s : State) (w : Word), irq (issue w s) = false) ∧
  (∀ s : State, s.Inv → s.engine ≠ .idle → irq s = false) ∧
  (∀ (i : Instr) (s t : State), exec i s = .next t → irq t = s.irqen) ∧
  (∀ (s : State), irq (portWrite s 0x0000C#20 4 0x0000000C#32) = false) ∧
  (∀ (s : State) (wdata : Word), wdata.getLsbD 0 = false →
    irq (portWrite s 0x00008#20 4 wdata) = if s.done = true ∨ s.err = true then wdata.getLsbD 1 else false)

/-- The host cannot change what a running command reads or where it writes (R57 c, R64, R84): any host access but a
soft reset leaves the engine's command, the operand registers and the RAMs as they were. -/
def Obligations.BusyCommandKeepsItsOperands : Prop :=
  ∀ (s t : State) (w : Word) (turn : Turn) (rest : List Turn), s.engine = .busy w → s.turns = turn :: rest →
    LeavesCommandAlone turn → step s = .next t →
      t.engine = s.engine ∧ SameRams s t ∧ t.len = s.len ∧ t.arg1 = s.arg1 ∧ t.arg2 = s.arg2 ∧
      t.arg3 = s.arg3 ∧ t.pdfStart = s.pdfStart ∧ t.pdfStop = s.pdfStop ∧ t.c128w0 = s.c128w0 ∧
      t.rmlit = s.rmlit ∧ t.fcsInit = s.fcsInit ∧ t.gf = s.gf ∧ t.result0 = s.result0 ∧ t.result1 = s.result1

/-- The host's `wait` (R65, R81) as the model plays it, one poll, the engine's move, a second poll (the model's choice, log
entry 17): it ends with the command ended and BUSY read as 0. -/
def Obligations.PollEndsWithTheCommand : Prop :=
  ∀ (s : State) (w : Word) (i : Instr) (rest : List Turn) (t : State),
    s.engine = .busy w → decode w = .ok i → s.turns = .poll :: rest →
    exec i { s with turns := .poll :: rest, reply := .read .okay (statusWord s) } = .next t →
      Sys2Proof.core.run 3 s = .next { t with turns := rest, reply := .read .okay (statusWord t) } ∧
      (statusWord t).getLsbD 1 = false

/-! ## Reset and initialisation (70_reset_and_hazards.md) -/

/-- The power-on reset (R48, R181): every register takes its reset value, every RAM entry is unwritten, the IRQ output is
0 and the engine is INIT, whatever the state was. -/
def Obligations.PowerOnResetsEverything : Prop :=
  ∀ (s : State) (rest : List Turn), s.turns = .powerOn :: rest →
    ∃ t, step s = .next t ∧ RegistersReset t ∧ t.engine = .init ∧ t.gf = none ∧ irq t = false ∧ t.turns = rest ∧
      ∀ name idx, entryOf t name idx = none

/-- The soft reset (R182): a CTRL write with bit 0 = 1 is accepted in every mode; every register takes its reset value,
the engine is INIT, and every RAM entry is kept but those in the output region of a command it abandons, each of
which holds some value of its type. The region of an emitting command whose checks fail before T, or whose T depends
on an unwritten entry, is the model's choice (log entry 9). -/
def Obligations.SoftResetKeepsRamsOutsideTheAbandonedRegion : Prop :=
  ∀ (s : State) (wdata : Word), wdata.getLsbD 0 = true →
    ∃ t, portWrite s 0x00008#20 4 wdata = t ∧ t.reply = .write .okay ∧ RegistersReset t ∧ t.engine = .init ∧
      t.gf = none ∧ irq t = false ∧ t.turns = s.turns ∧
      (∀ name idx, (∀ w i, s.engine = .busy w → decode w = .ok i → ¬ InRegion i s name idx) →
        entryOf t name idx = entryOf s name idx) ∧
      (∀ w i name idx, s.engine = .busy w → decode w = .ok i → InRegion i s name idx →
        (entryOf t name idx).isSome = true)

/-- The initialisation (R183, R184): in mode INIT STATUS reads 2 and a CMD write gets SLVERR; the engine's move builds
the tables, STATUS then reads 1, and nothing but the tables and the mode changes. -/
def Obligations.InitialisationMakesReady : Prop :=
  ∀ (s : State) (w : Word), s.Inv → s.engine = .init →
    statusWord s = 2#32 ∧ portWrite s 0x00010#20 4 w = { s with reply := .write .slverr } ∧
    ∃ t, engineStep s = .next t ∧ t = { s with gf := some gfTables, engine := .idle } ∧ statusWord t = 1#32

/-- The values of the tables the initialisation builds; every value 1 to 255 appears exactly once in ALOG, LOG inverts it,
and LOG[0] has no entry. The values are an inference of the spec's own: R113 marks them "[derived: the values follow from
the pseudocode]". -/
def Obligations.GfTableValues : Prop :=
  (∀ s : State, (finishInit s).gf = some gfTables) ∧
  gfTables.alog.take 16 = [1, 2, 4, 8, 16, 32, 64, 128, 45, 90, 180, 69, 138, 57, 114, 228] ∧
  gfTables.alog.length = 255 ∧ gfTables.alog.Nodup ∧ alogOf gfTables 254 = 150 ∧ 0#8 ∉ gfTables.alog ∧
  logOf gfTables 2 = 1 ∧ logOf gfTables 3 = 240 ∧ logOf gfTables 4 = 2 ∧ logOf gfTables 5 = 225 ∧
  gfTables.log.getD 0 none = none ∧ gfTables.log.length = 256 ∧
  (∀ i, i < 255 → alogOf gfTables i = timesXPow 1#8 i ∧ logOf gfTables (alogOf gfTables i) = i)

/-! ## The error-correction codec (42_ecc.md) -/

/-- gmul with the built tables is multiplication in GF(256), carry-less multiplication reduced modulo 0x12D; it is
commutative and associative, has 1 as its identity, distributes over XOR, and never reads LOG[0]. That it is carry-less
multiplication is an inference of the spec's own: R114 marks it "[derived: from 42_ecc.md rules R112 and R113]". -/
def Obligations.GmulIsFieldMultiplication : Prop :=
  (∀ a b : BitVec 8, gmul gfTables a b = fieldMul a b) ∧
  (∀ a b : BitVec 8, gmul gfTables a b = gmul gfTables b a) ∧
  (∀ a b c : BitVec 8, gmul gfTables (gmul gfTables a b) c = gmul gfTables a (gmul gfTables b c)) ∧
  (∀ a : BitVec 8, gmul gfTables 1#8 a = a) ∧
  (∀ a b c : BitVec 8, gmul gfTables a (b ^^^ c) = gmul gfTables a b ^^^ gmul gfTables a c) ∧
  (∀ (a b : BitVec 8) (x : Option (BitVec 8)),
    gmul { gfTables with log := gfTables.log.set 0 x } a b = gmul gfTables a b)

/-- The generator polynomial (R115): for each k of 1 to 255 it has k stored coefficients, and with its monic term the
roots α^1 to α^k. -/
def Obligations.GeneratorPolynomialHasItsRoots : Prop :=
  ∀ k i, 1 ≤ k → k ≤ 255 → 1 ≤ i → i ≤ k →
    (genPoly gfTables k).length = k ∧
    evalField (timesXPow 1#8 i) (1#8 :: (genPoly gfTables k).reverse) = 0#8

/-- RS_ECC200 completes on every legal shape and every data (R117, R119): RESULT0 = N + E, RESULT1 = E / B; it writes
exactly the E entries CW[N, N + E), each a byte, and changes nothing else. -/
def Obligations.RsEcc200Completes : Prop :=
  ∀ (s : State) (xs : List Nat), CwHolds s xs → (∀ x ∈ xs, x ≤ 255) → s.gf = some gfTables →
    EccShape xs.length s.arg1.toNat s.arg2.toNat →
    ∃ (ecc : List Nat) (t : State), ecc.length = s.arg1.toNat ∧ (∀ x ∈ ecc, x ≤ 255) ∧
      exec .rsEcc200 s = .next t ∧
      t = { doneState s (xs.length + s.arg1.toNat) (s.arg1.toNat / s.arg2.toNat) with cw := t.cw } ∧
      ∀ i, (t.cw.read i).map BitVec.toNat =
        if xs.length ≤ i ∧ i < xs.length + s.arg1.toNat then ecc[i - xs.length]?
        else (s.cw.read i).map BitVec.toNat

/-- After RS_ECC200 the data and ECC codewords of each block form a polynomial with the roots α^1 to α^k, k = E/B: each
block is a codeword of the Reed-Solomon code. It is an inference of the spec's own: R120 is marked "[derived: from
42_ecc.md rules R115 and R117]". -/
def Obligations.RsBlocksAreCodewords : Prop :=
  ∀ (s : State) (xs : List Nat), CwHolds s xs → (∀ x ∈ xs, x ≤ 255) → s.gf = some gfTables →
    EccShape xs.length s.arg1.toNat s.arg2.toNat →
    ∃ t, exec .rsEcc200 s = .next t ∧
      ∀ b i, b < s.arg2.toNat → 1 ≤ i → i ≤ s.arg1.toNat / s.arg2.toNat →
        evalField (timesXPow 1#8 i)
          (blockWords t xs.length s.arg2.toNat (s.arg1.toNat / s.arg2.toNat) b) = 0#8

/-- RS_ECC200 on data of zeros, or on no data, writes E zeros (R118). -/
def Obligations.RsZeroDataGivesZeroEcc : Prop :=
  ∀ (s : State) (n : Nat), CwHolds s (List.replicate n 0) → s.gf = some gfTables →
    EccShape n s.arg1.toNat s.arg2.toNat →
    ∃ t, exec .rsEcc200 s = .next t ∧ ∀ i, n ≤ i → i < n + s.arg1.toNat → t.cw.read i = some 0#16

/-- PDF_ECC completes for every level 0 to 8 and every data (R119, R122): with k = 2^(L+1), RESULT0 = N + k and
RESULT1 = k; it writes exactly the k entries CW[N, N + k), each a codeword 0 to 928, and changes nothing else. -/
def Obligations.PdfEccCompletes : Prop :=
  ∀ (s : State) (xs : List Nat), CwHolds s xs → (∀ x ∈ xs, x ≤ 928) → s.arg1.toNat ≤ 8 →
    xs.length + 2 ^ (s.arg1.toNat + 1) ≤ 4096 →
    ∃ (ecc : List Nat) (t : State), ecc.length = 2 ^ (s.arg1.toNat + 1) ∧ (∀ x ∈ ecc, x ≤ 928) ∧
      exec .pdfEcc s = .next t ∧
      t = { doneState s (xs.length + 2 ^ (s.arg1.toNat + 1)) (2 ^ (s.arg1.toNat + 1)) with cw := t.cw } ∧
      ∀ i, (t.cw.read i).map BitVec.toNat =
        if xs.length ≤ i ∧ i < xs.length + 2 ^ (s.arg1.toNat + 1) then ecc[i - xs.length]?
        else (s.cw.read i).map BitVec.toNat

/-- After PDF_ECC the data and EC codewords form a polynomial that is 0 modulo 929 at 3^i for i = 1 to k, with the default
PDF_EC_COEFF of Config. It is an inference of the spec's own: R124 is marked "[derived: from 42_ecc.md rules R121 and
R122]". -/
def Obligations.PdfCodewordHasItsRoots : Prop :=
  ∀ (s : State) (xs : List Nat), CwHolds s xs → (∀ x ∈ xs, x ≤ 928) → s.arg1.toNat ≤ 8 →
    xs.length + 2 ^ (s.arg1.toNat + 1) ≤ 4096 →
    ∃ t, exec .pdfEcc s = .next t ∧
      ∀ i, 1 ≤ i → i ≤ 2 ^ (s.arg1.toNat + 1) →
        eval929 (3 ^ i % 929) ((List.range (xs.length + 2 ^ (s.arg1.toNat + 1))).map (cwNum t)) = 0

/-- The examples of R122 and R123: EC codewords of given data. -/
def Obligations.PdfEccExamples : Prop :=
  pdfEcc (Config.pdfEcCoeff 1) [5, 453, 178, 121, 239] = [452, 327, 657, 619] ∧
  pdfEcc (Config.pdfEcCoeff 0) [1] = [917, 27] ∧ pdfEcc (Config.pdfEcCoeff 0) [928] = [12, 902] ∧
  pdfEcc (Config.pdfEcCoeff 0) [2, 0] = [695, 648] ∧ pdfEcc (Config.pdfEcCoeff 1) [3, 1, 2] = [4, 912, 190, 599] ∧
  pdfEcc (Config.pdfEcCoeff 2) [7, 1, 2, 3, 4, 5, 6] = [57, 141, 557, 287, 736, 807, 340, 602]

/-! ## The checksums (41_checksum.md) -/

/-- NOP (R91): RESULT0 and RESULT1 are 0, and the command completes; nothing else changes. -/
def Obligations.NopCompletes : Prop :=
  ∀ s : State, exec .nop s = .next (doneState s 0 0)

/-- CK_MOD10 (R98, R100): the generate form delivers the check digit and the sum; the verify form completes with them when
the supplied digit, its last element, equals the check digit of the others, and ends with MISMATCH, expected and
supplied, when it does not. -/
def Obligations.CkMod10Result : Prop :=
  (∀ (s : State) (xs : List Nat), CwHolds s xs → (∀ x ∈ xs, x ≤ 9) → xs.length ≤ 4096 →
    exec (.ckMod10 false) s = .next (doneState s (check10 xs) (sum10 xs))) ∧
  (∀ (s : State) (xs : List Nat) (c : Nat), CwHolds s (xs ++ [c]) → (∀ x ∈ xs ++ [c], x ≤ 9) →
    xs.length + 1 ≤ 4096 →
    exec (.ckMod10 true) s = .next
      (if c = check10 xs then doneState s (check10 xs) (sum10 xs) else errState s .mismatch (check10 xs) c))

/-- CK_MOD103 (R98, R101), with the weight CFG.C128W0 at position 0: every 16-bit element is accepted. -/
def Obligations.CkMod103Result : Prop :=
  (∀ (s : State) (xs : List Nat), CwHolds s xs → xs.length ≤ 4096 →
    exec (.ckMod103 false) s = .next (doneState s (check103 (if s.c128w0 then 1 else 0) xs) 0)) ∧
  (∀ (s : State) (xs : List Nat) (c : Nat), CwHolds s (xs ++ [c]) → xs.length + 1 ≤ 4096 →
    exec (.ckMod103 true) s = .next
      (if c = check103 (if s.c128w0 then 1 else 0) xs then doneState s (check103 (if s.c128w0 then 1 else 0) xs) 0
       else errState s .mismatch (check103 (if s.c128w0 then 1 else 0) xs) c))

/-- CK_MOD6 (R98, R102 to R104), with the mapping CFG.RMLIT selects: RESULT1 holds the row sum and the column sum. -/
def Obligations.CkMod6Result : Prop :=
  (∀ (s : State) (xs : List Nat), CwHolds s xs → (∀ x ∈ xs, x ≤ 35) → xs.length ≤ 4096 →
    exec (.ckMod6 false) s = .next
      (doneState s (check6 s.rmlit xs) ((xs.map rowOf).sum * 65536 + (xs.map colOf).sum))) ∧
  (∀ (s : State) (xs : List Nat) (c : Nat), CwHolds s (xs ++ [c]) → (∀ x ∈ xs ++ [c], x ≤ 35) →
    xs.length + 1 ≤ 4096 →
    exec (.ckMod6 true) s = .next
      (if c = check6 s.rmlit xs then
         doneState s (check6 s.rmlit xs) ((xs.map rowOf).sum * 65536 + (xs.map colOf).sum)
       else errState s .mismatch (check6 s.rmlit xs) c))

/-- CK_FCS (R105, R106): the 11-bit FCS of the 102-bit stream of the 13 bytes, from FCS_INIT on. -/
def Obligations.CkFcsResult : Prop :=
  (∀ (s : State) (xs : List Nat), CwHolds s xs → (∀ x ∈ xs, x ≤ 255) → xs.length = 13 →
    exec (.ckFcs false) s = .next (doneState s (fcs s.fcsInit.toNat xs) 0)) ∧
  (∀ (s : State) (xs : List Nat) (c : Nat), CwHolds s (xs ++ [c]) → (∀ x ∈ xs, x ≤ 255) → c ≤ 0x7FF →
    xs.length = 13 →
    exec (.ckFcs true) s = .next
      (if c = fcs s.fcsInit.toNat xs then doneState s (fcs s.fcsInit.toNat xs) 0
       else errState s .mismatch (fcs s.fcsInit.toNat xs) c))

/-- The round trip of the checksums (R98, R103): when the generate form has delivered a check value c below 2^16, the
verify form over the same payload with c appended completes with the same RESULT0. -/
def Obligations.VerifyAcceptsGeneratedCheck : Prop :=
  ∀ (s u : State) (xs : List Nat) (c : Nat) (m : Bool → Instr), m ∈ [Instr.ckMod10, .ckMod103, .ckMod6, .ckFcs] →
    CwHolds s xs → xs.length + 1 ≤ 4096 →
    (∃ t, exec (m false) s = .next t ∧ t.errcode = .none ∧ t.result0.toNat = c) →
    CwHolds u (xs ++ [c]) → u.c128w0 = s.c128w0 → u.rmlit = s.rmlit → u.fcsInit = s.fcsInit →
    ∃ t, exec (m true) u = .next t ∧ t.errcode = .none ∧ t.done = true ∧ t.result0.toNat = c

/-! ## The matrix layout (43_layout_matrix.md) -/

/-- The ECC200 sizes of at most 22 rows and 32 columns (R136): DM_PLACE with enough codewords completes with RESULT0 =
floor(nrow · ncol / 8), RESULT1 = 1 exactly for the four sizes with a corner fill, every cell of the region set and
nothing outside it changed; with one codeword too few it ends with CW_UNDERRUN. -/
def Obligations.DmPlaceOnSmallEcc200Sizes : Prop :=
  ∀ (s : State) (xs : List Nat) (R C : Nat), (R, C) ∈ smallEcc200Sizes → s.arg1.toNat = R → s.arg2.toNat = C →
    CwHolds s xs → (∀ x ∈ xs, x ≤ 255) → xs.length ≤ 4096 →
    (R * C / 8 ≤ xs.length →
      ∃ t, exec .dmPlace s = .next t ∧
        t = { doneState s (R * C / 8) (if (R, C) ∈ [(10, 10), (14, 14), (18, 18), (22, 22)] then 1 else 0) with
              ga := t.ga } ∧
        (∀ r c, r < R → c < C → ∃ b, t.ga.read (256 * r + c) = some (.set b)) ∧
        (∀ r c, c < 256 → ¬ (r < R ∧ c < C) → t.ga.read (256 * r + c) = s.ga.read (256 * r + c))) ∧
    (xs.length + 1 = R * C / 8 →
      ∃ t, exec .dmPlace s = .next t ∧
        t = { errState s .cwUnderrun xs.length xs.length with ga := t.ga, draws := t.draws })

/-- A placement that ends without an error is a bijection (R133, R146): every cell of the region is set, by a bit of a
codeword or by the corner fill; each of the 8 bits of each codeword placed is at exactly one cell. It holds for
every size and every N. The bits of each codeword lie at the wrapped cells of one pattern of R130 or R132 (R129), the
patterns in the cursor's order (R133, R134), and the corner fill has the four values of R135. -/
def Obligations.PlacementIsBijection : Prop :=
  ∀ (N R C : Nat) (p : Placed), 1 ≤ R → R ≤ 256 → 1 ≤ C → C ≤ 256 → placement N R C = .ok p →
    p.pos ≤ N ∧
    (∀ r c, r < R → c < C → markAt p.sheet r c ≠ .unset) ∧
    (∀ r c pos bit, r < R → c < C → markAt p.sheet r c = .codeword pos bit → pos < p.pos ∧ 1 ≤ bit ∧ bit ≤ 8) ∧
    (∀ pos bit, pos < p.pos → 1 ≤ bit → bit ≤ 8 →
      ∃ r c, r < R ∧ c < C ∧ markAt p.sheet r c = .codeword pos bit ∧
        ∀ r' c', r' < R → c' < C → markAt p.sheet r' c' = .codeword pos bit → r' = r ∧ c' = c) ∧
    (p.fill = 0 → ∀ r c, r < R → c < C → ∀ b, markAt p.sheet r c ≠ .fixed b) ∧
    p.pos * 8 + 4 * p.fill = R * C ∧
    (p.fill = 0 ∨ p.fill = 1) ∧ (p.fill = 1 → CornerFilled p.sheet R C) ∧
    ∃ pat : Nat → Pattern,
      (∀ pos, pos < p.pos → (pat pos).allowed R C ∧
        ∀ bit cell, ((pat pos).cells R C)[bit]? = some cell → BitAt p.sheet R C pos (bit + 1) cell) ∧
      ∀ pos pos', pos < pos' → pos' < p.pos → (pat pos).rank R < (pat pos').rank R

/-- R134: two DM_PLACE commands with the same LEN, nrow and ncol and codewords in range end alike, whatever the codewords
and the grids hold: the same error code and results. -/
def Obligations.DmPlaceOutcomeIgnoresCodewords : Prop :=
  ∀ (s u : State) (xs ys : List Nat), CwHolds s xs → CwHolds u ys → (∀ x ∈ xs, x ≤ 255) → (∀ y ∈ ys, y ≤ 255) →
    s.len = u.len → s.arg1 = u.arg1 → s.arg2 = u.arg2 →
    ∃ t v, exec .dmPlace s = .next t ∧ exec .dmPlace u = .next v ∧
      t.errcode = v.errcode ∧ t.result0 = v.result0 ∧ t.result1 = v.result1

/-- Sizes outside the ECC200 set: each size R137 names, with 400 codewords. They are an inference of the spec's own: R137 is
marked "[derived: from 43_layout_matrix.md rule R133]". -/
def Obligations.PlacementOfOtherSizes : Prop :=
  placement 400 1 1 = .error (.error .geometry 0 0) ∧
  placement 400 3 3 = .error (.error .incomplete 1 0x00000002) ∧
  placement 400 5 5 = .error (.error .geometry 0 0x00050003) ∧
  placement 400 7 7 = .error (.error .overlap 3 0x00040005) ∧
  placement 400 9 9 = .error (.error .overlap 5 0x00070002) ∧
  (∃ p, placement 400 2 2 = .ok p ∧ p.pos = 0 ∧ p.fill = 1) ∧
  (∃ p, placement 400 4 4 = .ok p ∧ p.pos = 2) ∧
  (∃ p, placement 400 6 6 = .ok p ∧ p.pos = 4 ∧ p.fill = 1) ∧
  (∃ p, placement 400 8 10 = .ok p ∧ p.pos = 10) ∧
  (∃ p, placement 400 8 16 = .ok p ∧ p.pos = 16) ∧
  (∃ p, placement 400 16 8 = .ok p ∧ p.pos = 16)

/-- DM_PLACE fills the region from the codewords (R129, R131, R133): where it completes, the cell a placement gives bit b
of codeword pos holds bit 8 − b of CW[pos], 1 DARK. The 8 × 8 matrix of "123456" has the rows of R140's worked example. -/
def Obligations.DmPlaceCellsHoldCodewordBits : Prop :=
  (∀ s : State, CwHolds s [142, 164, 186, 114, 25, 5, 88, 102] → s.arg1.toNat = 8 → s.arg2.toNat = 8 →
    ∃ t, exec .dmPlace s = .next t ∧ t = { doneState s 8 0 with ga := t.ga } ∧
      ∀ r c v, c < 8 → [0x96, 0x82, 0x8E, 0x84, 0x07, 0xD8, 0xEC, 0x3A][r]? = some v →
        t.ga.read (256 * r + c) = some (.set (Nat.testBit v (7 - c)))) ∧
  ∀ (s : State) (xs : List Nat) (p : Placed), CwHolds s xs → (∀ x ∈ xs, x ≤ 255) → xs.length ≤ 4096 →
    1 ≤ s.arg1.toNat → s.arg1.toNat ≤ 256 → 1 ≤ s.arg2.toNat → s.arg2.toNat ≤ 256 →
    placement xs.length s.arg1.toNat s.arg2.toNat = .ok p →
    ∃ t, exec .dmPlace s = .next t ∧ t = { doneState s p.pos p.fill with ga := t.ga } ∧
      (∀ r c pos bit, r < s.arg1.toNat → c < s.arg2.toNat → markAt p.sheet r c = .codeword pos bit →
        t.ga.read (256 * r + c) = some (.set ((xs.getD pos 0).testBit (8 - bit)))) ∧
      (∀ r c b, r < s.arg1.toNat → c < s.arg2.toNat → markAt p.sheet r c = .fixed b →
        t.ga.read (256 * r + c) = some (.set b)) ∧
      (∀ r c, c < 256 → ¬ (r < s.arg1.toNat ∧ c < s.arg2.toNat) →
        t.ga.read (256 * r + c) = s.ga.read (256 * r + c))

/-- After an error DM_PLACE finds while placing, the cells of the region hold some value and every other cell, RAM and
register but the results and flags is unchanged (R88, R89). `draws` counts the model's free draws (log entry 8). -/
def Obligations.DmPlaceDynamicErrorFrame : Prop :=
  ∀ (s : State) (xs : List Nat) (code : ErrCode) (r0 r1 : Nat), CwHolds s xs → (∀ x ∈ xs, x ≤ 255) →
    xs.length ≤ 4096 → 1 ≤ s.arg1.toNat → s.arg1.toNat ≤ 256 → 1 ≤ s.arg2.toNat → s.arg2.toNat ≤ 256 →
    placement xs.length s.arg1.toNat s.arg2.toNat = .error (.error code r0 r1) →
    code ∈ [ErrCode.geometry, .overlap, .cwUnderrun, .incomplete] ∧
    ∃ t, exec .dmPlace s = .next t ∧ t = { errState s code r0 r1 with ga := t.ga, draws := t.draws } ∧
      (∀ r c, r < s.arg1.toNat → c < s.arg2.toNat → ∃ v, t.ga.read (256 * r + c) = some v) ∧
      (∀ r c, c < 256 → ¬ (r < s.arg1.toNat ∧ c < s.arg2.toNat) →
        t.ga.read (256 * r + c) = s.ga.read (256 * r + c))

/-- DM_FRAME (R138, R139): it completes with the symbol size as results, each region framed by the four edges of the rule
around its mapping cells, and no other cell of GB and nothing else changed. -/
def Obligations.DmFrameCompletes : Prop :=
  ∀ (s : State) (h w rv rh : Nat) (m : Nat → Nat → Bool), s.arg1.toNat = h → s.arg2.toNat = w →
    s.arg3.toNat % 65536 = rv → s.arg3.toNat / 65536 = rh → 2 ≤ h → 2 ≤ w → h % 2 = 0 → w % 2 = 0 → 1 ≤ rv → 1 ≤ rh →
    rv * (h + 2) ≤ 256 → rh * (w + 2) ≤ 256 → GridHolds s.ga (rv * h) (rh * w) m →
    ∃ t, exec .dmFrame s = .next t ∧ t = { doneState s (rv * (h + 2)) (rh * (w + 2)) with gb := t.gb } ∧
      (∀ i j, i < rv → j < rh →
        (∀ x, x < w + 2 →
          t.gb.read (256 * (i * (h + 2)) + (j * (w + 2) + x)) = some (.set ((j * (w + 2) + x) % 2 = 0)) ∧
          t.gb.read (256 * (i * (h + 2) + h + 1) + (j * (w + 2) + x)) = some (.set true)) ∧
        (∀ y, y < h →
          t.gb.read (256 * (i * (h + 2) + 1 + y) + j * (w + 2)) = some (.set true) ∧
          t.gb.read (256 * (i * (h + 2) + 1 + y) + (j * (w + 2) + w + 1)) = some (.set ((i * h + y) % 2 = 0)) ∧
          ∀ x, x < w →
            t.gb.read (256 * (i * (h + 2) + 1 + y) + (j * (w + 2) + 1 + x)) =
              some (.set (m (i * h + y) (j * w + x))))) ∧
      (∀ r c, c < 256 → ¬ (r < rv * (h + 2) ∧ c < rh * (w + 2)) →
        t.gb.read (256 * r + c) = s.gb.read (256 * r + c))

/-- GRID_EMIT of grid A or grid B (R141): when the rows' events fit, it completes and the event buffer holds them from
EV_WPTR on, in order; nothing else changes. -/
def Obligations.GridEmitCompletes : Prop :=
  ∀ (s : State) (selA : Bool) (m : Nat → Nat → Bool), 1 ≤ s.arg1.toNat → s.arg1.toNat ≤ 256 → 1 ≤ s.arg2.toNat →
    s.arg2.toNat ≤ 256 → GridHolds (if selA then s.ga else s.gb) s.arg1.toNat s.arg2.toNat m →
    s.evWptr.toNat + ((List.range s.arg1.toNat).flatMap (gridRow s.arg2.toNat m)).length ≤ 8192 →
    ∃ t, exec (.gridEmit selA) s = .next t ∧
      Emitted s t ((List.range s.arg1.toNat).flatMap (gridRow s.arg2.toNat m))

/-! ## The linear layout (44_layout_bars.md) -/

/-- R94: bit n−1 of an n-bit pattern is its leftmost module, a 1 bit black. The ADD_BARs of a list of at most 4095 modules
give its modules back, one event for each maximal run: their number is one more than the neighbours that differ, and
the colours alternate. The start pattern of the rule's example gives widths 8,1,1,1,1,1,1,3, starting black. -/
def Obligations.BarsReproduceModules : Prop :=
  (∀ p n i, i < n → (patternBits p n).length = n ∧ (patternBits p n)[i]? = some (p.testBit (n - 1 - i))) ∧
  bars (patternBits 0x1FEA8 17) = [0x1008#32, 1#32, 0x1001#32, 1#32, 0x1001#32, 1#32, 0x1001#32, 3#32] ∧
  ∀ ms : List Bool, ms ≠ [] → ms.length ≤ 4095 →
    (bars ms).flatMap barModules = ms ∧
    (bars ms).length = 1 + ((List.range (ms.length - 1)).filter (fun i => ms[i]? ≠ ms[i + 1]?)).length ∧
    (∀ e ∈ bars ms, 1 ≤ e.toNat % 4096 ∧ e.toNat < 0x2000) ∧
    (∀ i, i + 1 < (bars ms).length →
      ((bars ms).getD i 0#32).getLsbD 12 ≠ ((bars ms).getD (i + 1) 0#32).getLsbD 12)

/-- The row indicators are those of R149's table, and every one is a codeword of its cluster, at most 899. The bound is an
inference of the spec's own: R149 marks it "[derived: from this table]". -/
def Obligations.RowIndicatorsAreCodewords : Prop :=
  ∀ y r c level, y < r → r ≤ 90 → 1 ≤ c → c ≤ 30 → level ≤ 8 →
    leftIndicator y r c level = leftOf y r c level ∧ rightIndicator y r c level = rightOf y r c level ∧
    leftIndicator y r c level ≤ 899 ∧ rightIndicator y r c level ≤ 899

/-- PDF_ROWS (R150, R151): when every pattern a row uses is in PT, starts black and ends white, and the events fit, it
completes and the event buffer holds the rows' events from EV_WPTR on; nothing else changes. -/
def Obligations.PdfRowsCompletes : Prop :=
  ∀ (s : State) (xs : List Nat) (r c level : Nat) (pat : Nat → Nat → Nat), CwHolds s xs → (∀ x ∈ xs, x ≤ 928) →
    s.arg1.toNat = r → s.arg2.toNat = c → s.arg3.toNat = level → 1 ≤ r → r ≤ 90 → 1 ≤ c → c ≤ 30 → level ≤ 8 →
    xs.length = r * c →
    (∀ y v, y < r → v ∈ rowOfSymbol xs r c level y →
      (s.pt.read ((y % 3) * 1024 + v)).map BitVec.toNat = some (pat (y % 3) v) ∧
      (pat (y % 3) v).testBit 16 = true ∧ (pat (y % 3) v).testBit 0 = false) →
    s.evWptr.toNat + ((List.range r).flatMap (pdfRow s pat xs r c level)).length ≤ 8192 →
    ∃ t, exec .pdfRows s = .next t ∧ Emitted s t ((List.range r).flatMap (pdfRow s pat xs r c level))

/-- The event count of PDF_ROWS with the reset start and stop patterns and codeword patterns of 8 runs each is
r · (43 + 10 · c) (R151). -/
def Obligations.PdfRowsEventCountFormula : Prop :=
  ∀ (s : State) (p : EventPlan), s.pdfStart = 0x1FEA8#17 → s.pdfStop = 0x3FA29#18 →
    (∀ i q, s.pt.read i = some q → runCount (patternBits q.toNat 17) = 8) → pdfRowsPlan s = .ok p →
    p.count = s.arg1.toNat * (43 + 10 * s.arg2.toNat)

/-- BAR_WALK (R153, R154): when every index names a valid entry and the events fit, it completes and the event buffer
holds one group for each index from EV_WPTR on, of the kind the command names; nothing else changes. -/
def Obligations.BarWalkCompletes : Prop :=
  ∀ (s : State) (black1 : Bool) (kind : BitVec 4) (xs : List Nat) (ws : Nat → List Nat), kind.toNat < 8 →
    CwHolds s xs → xs.length ≤ 4096 →
    (∀ x ∈ xs, x < 256 ∧ ∃ t, s.bt.read x = some t ∧ EntryHolds t (ws x)) →
    s.evWptr.toNat + (xs.flatMap (fun x => walkGroup kind.toNat black1 x (ws x))).length ≤ 8192 →
    ∃ t, exec (.barWalk black1 kind) s = .next t ∧
      Emitted s t (xs.flatMap (fun x => walkGroup kind.toNat black1 x (ws x)))

/-- R95: an emitting command whose events do not fit below EV_DEPTH ends with EV_OVERFLOW, RESULT0 the exact number of
events its rule would emit and RESULT1 EV_WPTR, and writes nothing. -/
def Obligations.OverflowingEmittersWriteNothing : Prop :=
  ∀ (s : State) (i : Instr) (plan : EventPlan), i.wellFormed = true →
    (match i with
     | .gridEmit selA => gridEmitPlan selA s = .ok plan
     | .pdfRows => pdfRowsPlan s = .ok plan
     | .barWalk black1 kind => barWalkPlan black1 kind s = .ok plan
     | _ => False) →
    plan.count = plan.events.length ∧
    (8192 < s.evWptr.toNat + plan.events.length →
      exec i s = .next (errState s .evOverflow plan.events.length s.evWptr.toNat))

/-! ## Errors (60_exceptions.md) -/

/-- The errors of the operand registers (R161 to R163): ECC_SHAPE, LEVEL, the static GEOMETRY and LENGTH, each with its two
values, each found before anything is read from a RAM and with nothing else changed. LENGTH of RS_ECC200 is
stated where N + E fits a 32-bit register. -/
def Obligations.OperandErrors : Prop :=
  ∀ s : State,
    ((s.arg2.toNat = 0 ∨ s.arg1.toNat = 0 ∨ s.arg1.toNat % s.arg2.toNat ≠ 0 ∨ 255 < s.arg1.toNat / s.arg2.toNat) →
      exec .rsEcc200 s = .next (errState s .eccShape s.arg1.toNat s.arg2.toNat)) ∧
    (0 < s.arg2.toNat → 0 < s.arg1.toNat → s.arg1.toNat % s.arg2.toNat = 0 → s.arg1.toNat / s.arg2.toNat ≤ 255 →
      4096 < s.len.toNat + s.arg1.toNat → s.len.toNat + s.arg1.toNat < 2 ^ 32 →
      exec .rsEcc200 s = .next (errState s .length (s.len.toNat + s.arg1.toNat) 0)) ∧
    (8 < s.arg1.toNat → exec .pdfEcc s = .next (errState s .level s.arg1.toNat 0)) ∧
    (s.arg1.toNat ≤ 8 → 4096 < s.len.toNat + 2 ^ (s.arg1.toNat + 1) →
      exec .pdfEcc s = .next (errState s .length (s.len.toNat + 2 ^ (s.arg1.toNat + 1)) 0)) ∧
    (∀ m ∈ [Instr.ckMod10, .ckMod103, .ckMod6],
      (s.len.toNat = 0 → exec (m true) s = .next (errState s .length 0 0)) ∧
      (∀ verify, 4096 < s.len.toNat → exec (m verify) s = .next (errState s .length s.len.toNat 0))) ∧
    (∀ verify : Bool, s.len.toNat ≠ 13 + (if verify then 1 else 0) →
      exec (.ckFcs verify) s = .next (errState s .length s.len.toNat 0)) ∧
    ((s.arg1.toNat < 1 ∨ 256 < s.arg1.toNat ∨ s.arg2.toNat < 1 ∨ 256 < s.arg2.toNat) →
      exec .dmPlace s = .next (errState s .geometry s.arg1.toNat s.arg2.toNat) ∧
      ∀ selA, exec (.gridEmit selA) s = .next (errState s .geometry s.arg1.toNat s.arg2.toNat)) ∧
    (1 ≤ s.arg1.toNat → s.arg1.toNat ≤ 256 → 1 ≤ s.arg2.toNat → s.arg2.toNat ≤ 256 → 4096 < s.len.toNat →
      exec .dmPlace s = .next (errState s .length s.len.toNat 0)) ∧
    ((s.arg1.toNat < 2 ∨ s.arg2.toNat < 2 ∨ s.arg1.toNat % 2 ≠ 0 ∨ s.arg2.toNat % 2 ≠ 0 ∨
        s.arg3.toNat % 65536 < 1 ∨ s.arg3.toNat / 65536 < 1 ∨ 256 < s.arg3.toNat % 65536 * (s.arg1.toNat + 2) ∨
        256 < s.arg3.toNat / 65536 * (s.arg2.toNat + 2)) →
      exec .dmFrame s = .next (errState s .geometry s.arg1.toNat s.arg2.toNat)) ∧
    ((s.arg1.toNat < 1 ∨ 90 < s.arg1.toNat ∨ s.arg2.toNat < 1 ∨ 30 < s.arg2.toNat) →
      exec .pdfRows s = .next (errState s .geometry s.arg1.toNat s.arg2.toNat)) ∧
    (1 ≤ s.arg1.toNat → s.arg1.toNat ≤ 90 → 1 ≤ s.arg2.toNat → s.arg2.toNat ≤ 30 →
      (8 < s.arg3.toNat → exec .pdfRows s = .next (errState s .level s.arg3.toNat 0)) ∧
      (s.arg3.toNat ≤ 8 → s.len.toNat ≠ s.arg1.toNat * s.arg2.toNat →
        exec .pdfRows s = .next (errState s .length s.len.toNat (s.arg1.toNat * s.arg2.toNat)))) ∧
    (∀ (black1 : Bool) (kind : BitVec 4), kind.toNat < 8 → 4096 < s.len.toNat →
      exec (.barWalk black1 kind) s = .next (errState s .length s.len.toNat 0))

/-- RANGE (R99, R162, R163): the first element above a command's limit ends it with RANGE, RESULT0 its index and RESULT1
its value, and nothing else changes. -/
def Obligations.FirstElementOutOfRangeIsReported : Prop :=
  ∀ (s : State) (i v : Nat), i < s.len.toNat → s.len.toNat ≤ 4096 →
    (FirstAbove s 9 i v → ∀ verify, exec (.ckMod10 verify) s = .next (errState s .range i v)) ∧
    (FirstAbove s 35 i v → ∀ verify, exec (.ckMod6 verify) s = .next (errState s .range i v)) ∧
    (FirstAbove s 255 i v → i < 13 → ∀ verify : Bool, s.len.toNat = 13 + (if verify then 1 else 0) →
      exec (.ckFcs verify) s = .next (errState s .range i v)) ∧
    ((∀ j, j < 13 → ∃ u, s.cw.read j = some u ∧ u.toNat ≤ 255) → s.len.toNat = 14 → i = 13 →
      (s.cw.read i).map BitVec.toNat = some v → 0x7FF < v →
      exec (.ckFcs true) s = .next (errState s .range i v)) ∧
    (FirstAbove s 255 i v → EccShape s.len.toNat s.arg1.toNat s.arg2.toNat →
      exec .rsEcc200 s = .next (errState s .range i v)) ∧
    (FirstAbove s 928 i v → s.arg1.toNat ≤ 8 → s.len.toNat + 2 ^ (s.arg1.toNat + 1) ≤ 4096 →
      exec .pdfEcc s = .next (errState s .range i v)) ∧
    (FirstAbove s 255 i v → 1 ≤ s.arg1.toNat → s.arg1.toNat ≤ 256 → 1 ≤ s.arg2.toNat → s.arg2.toNat ≤ 256 →
      exec .dmPlace s = .next (errState s .range i v)) ∧
    (FirstAbove s 928 i v → 1 ≤ s.arg1.toNat → s.arg1.toNat ≤ 90 → 1 ≤ s.arg2.toNat → s.arg2.toNat ≤ 30 →
      s.arg3.toNat ≤ 8 → s.len.toNat = s.arg1.toNat * s.arg2.toNat →
      exec .pdfRows s = .next (errState s .range i v)) ∧
    (FirstAbove s 255 i v → ∀ (black1 : Bool) (kind : BitVec 4), kind.toNat < 8 →
      exec (.barWalk black1 kind) s = .next (errState s .range i v))

/-- INCOMPLETE (R138, R141, R162): DM_FRAME and GRID_EMIT end at the first UNSET cell in row-major order, RESULT1 its row
and column, and nothing else changes. -/
def Obligations.FirstUnsetCellIsReported : Prop :=
  ∀ (s : State) (r c : Nat),
    (∀ h w rv rh, s.arg1.toNat = h → s.arg2.toNat = w → s.arg3.toNat % 65536 = rv → s.arg3.toNat / 65536 = rh →
      2 ≤ h → 2 ≤ w → h % 2 = 0 → w % 2 = 0 → 1 ≤ rv → 1 ≤ rh → rv * (h + 2) ≤ 256 → rh * (w + 2) ≤ 256 →
      FirstUnset s.ga (rv * h) (rh * w) r c →
      exec .dmFrame s = .next (errState s .incomplete 0 (65536 * r + c))) ∧
    (∀ selA : Bool, 1 ≤ s.arg1.toNat → s.arg1.toNat ≤ 256 → 1 ≤ s.arg2.toNat → s.arg2.toNat ≤ 256 →
      FirstUnset (if selA then s.ga else s.gb) s.arg1.toNat s.arg2.toNat r c →
      exec (.gridEmit selA) s = .next (errState s .incomplete 0 (65536 * r + c)))

/-- TABLE of BAR_WALK (R153, R154, R162): the first index whose entry has a count of 0 or above 7, or an element of width
0, ends it with TABLE, RESULT0 the index and RESULT1 the entry, and nothing else changes. -/
def Obligations.FirstInvalidBarEntryIsReported : Prop :=
  ∀ (s : State) (black1 : Bool) (kind : BitVec 4) (xs : List Nat) (k : Nat) (t : Word), kind.toNat < 8 →
    CwHolds s xs → xs.length ≤ 4096 → (∀ x ∈ xs, x < 256) → k < xs.length →
    (∀ j, j < k → ∃ u ws, s.bt.read (xs.getD j 0) = some u ∧ EntryHolds u ws) →
    s.bt.read (xs.getD k 0) = some t → (∀ ws, ¬ EntryHolds t ws) →
    exec (.barWalk black1 kind) s = .next (errState s .table (xs.getD k 0) t.toNat)

/-- TABLE of PDF_ROWS (R150, R162): the first pattern, row by row and from the left indicator to the right one, that does
not start black or does not end white ends it with TABLE, RESULT0 the cluster and codeword and RESULT1 the pattern,
and nothing else changes. -/
def Obligations.FirstInvalidPatternIsReported : Prop :=
  ∀ (s : State) (xs : List Nat) (r c level y k v : Nat) (p : BitVec 17), CwHolds s xs → (∀ x ∈ xs, x ≤ 928) →
    s.arg1.toNat = r → s.arg2.toNat = c → s.arg3.toNat = level → 1 ≤ r → r ≤ 90 → 1 ≤ c → c ≤ 30 → level ≤ 8 →
    xs.length = r * c → y < r → (rowOfSymbol xs r c level y)[k]? = some v →
    (∀ y' k' v', (y' < y ∨ (y' = y ∧ k' < k)) → (rowOfSymbol xs r c level y')[k']? = some v' →
      ∃ q, s.pt.read ((y' % 3) * 1024 + v') = some q ∧ q.getLsbD 16 = true ∧ q.getLsbD 0 = false) →
    s.pt.read ((y % 3) * 1024 + v) = some p → (p.getLsbD 16 = false ∨ p.getLsbD 0 = true) →
    exec .pdfRows s = .next (errState s .table (65536 * (y % 3) + v) p.toNat)

/-- R89: an error from any command but DM_PLACE leaves every RAM and EV_WPTR exactly as they were at issue. -/
def Obligations.ErrorsLeaveRamsAsTheyWere : Prop :=
  ∀ (i : Instr) (s t : State), i ≠ .dmPlace → exec i s = .next t → t.errcode ≠ .none → SameRams s t

/-! ## Whole-machine rules -/

/-- What a command may change (R33, R35, R39 to R41, R68, R86, R88): a command that goes on leaves the engine IDLE; it
changes no operand or configuration register, not CTRL or LASTOP, no table and no ROM; only RS_ECC200 and PDF_ECC
write CW, only DM_PLACE GA, only DM_FRAME GB, and only GRID_EMIT, PDF_ROWS and BAR_WALK write EV and EV_WPTR; and it
ends either with DONE set and ERRCODE 0 or with ERR set and another code. -/
def Obligations.CommandsChangeOnlyTheirOutputs : Prop :=
  ∀ (i : Instr) (s t : State), exec i s = .next t →
    t.engine = .idle ∧ SameInputs s t ∧
    (i ≠ .rsEcc200 → i ≠ .pdfEcc → t.cw = s.cw) ∧
    (i ≠ .dmPlace → t.ga = s.ga ∧ t.draws = s.draws) ∧
    (i ≠ .dmFrame → t.gb = s.gb) ∧
    ((∀ a, i ≠ .gridEmit a) → i ≠ .pdfRows → (∀ b k, i ≠ .barWalk b k) → t.ev = s.ev ∧ t.evWptr = s.evWptr) ∧
    ((t.errcode = .none ∧ t.done = true ∧ t.err = s.err) ∨ (t.errcode ≠ .none ∧ t.err = true ∧ t.done = s.done))

/-- R90 with R77, R46: a command's results, error code, EV_WPTR and RAM writes, or the fault it stops with, depend on the
registers it reads and the RAMs and ROMs it reads alone: not on the results and flags of earlier commands, CTRL, or the
host's moves, and not on the operand and configuration registers to which R77 gives a dash for it, nor on any RAM or
RAM entry it does not read. -/
def Obligations.OutputsDependOnlyOnInputs : Prop :=
  (∀ (i : Instr) (s u : State), ReadsAgree i s u → EndsAlike i s u) ∧
  ∀ (i : Instr) (s : State) (r0 r1 : Word) (code : ErrCode) (done err irqen : Bool) (lastop : BitVec 8)
    (turns : List Turn) (reply : Reply) (epoch : Nat),
    outputsOf (exec i (otherHistory s r0 r1 code done err irqen lastop turns reply epoch)) = outputsOf (exec i s)

/-- The reset state meets the invariant. -/
def Obligations.ResetMeetsInvariant : Prop := State.reset.Inv

/-- Every step keeps the invariant: the RAMs stay in their canonical form and inside their depths, the GF(256) tables are
built exactly outside INIT, DONE and ERR stay 0 while the engine is INIT or BUSY and agree with ERRCODE, and LASTOP
is the running command's opcode (R21, R37 to R42, R45, R72, R85, R86, R88, R184). -/
def Obligations.StepKeepsInvariant : Prop :=
  ∀ s t : State, s.Inv → step s = .next t → t.Inv

/-- No step is refused, and a step from a state that meets the invariant faults only where the engine moves and its command
reads a RAM entry nothing has written since power-on; the fault names that entry (R49, R187). And each such read does
fault, naming the entry, where every check before it passes: of a CW element, of a grid cell by DM_FRAME and GRID_EMIT,
of a BT entry by BAR_WALK and of a PT entry by PDF_ROWS (R49, I2). -/
def Obligations.OnlyUnwrittenEntriesFault : Prop :=
  (∀ (s : State) (r : Refusal), step s ≠ .refused r) ∧
  (∀ (s : State) (f : Fault), s.Inv → step s = .fault f →
    ∃ w name idx, s.engine = .busy w ∧ (s.turns = [] ∨ ∃ rest, s.turns = .engine :: rest) ∧
      f = .unwritten name idx ∧ entryOf s name idx = none) ∧
  (∀ (s : State) (i : Nat), i < s.len.toNat → s.len.toNat ≤ 4096 →
    (FirstUnwritten s 9 i → ∀ verify, exec (.ckMod10 verify) s = .fault (.unwritten .cw i)) ∧
    (FirstUnwritten s 65535 i → ∀ verify, exec (.ckMod103 verify) s = .fault (.unwritten .cw i)) ∧
    (FirstUnwritten s 35 i → ∀ verify, exec (.ckMod6 verify) s = .fault (.unwritten .cw i)) ∧
    (FirstUnwritten s 255 i → ∀ verify : Bool, s.len.toNat = 13 + (if verify then 1 else 0) →
      exec (.ckFcs verify) s = .fault (.unwritten .cw i)) ∧
    (FirstUnwritten s 255 i → EccShape s.len.toNat s.arg1.toNat s.arg2.toNat →
      exec .rsEcc200 s = .fault (.unwritten .cw i)) ∧
    (FirstUnwritten s 928 i → s.arg1.toNat ≤ 8 → s.len.toNat + 2 ^ (s.arg1.toNat + 1) ≤ 4096 →
      exec .pdfEcc s = .fault (.unwritten .cw i)) ∧
    (FirstUnwritten s 255 i → 1 ≤ s.arg1.toNat → s.arg1.toNat ≤ 256 → 1 ≤ s.arg2.toNat → s.arg2.toNat ≤ 256 →
      exec .dmPlace s = .fault (.unwritten .cw i)) ∧
    (FirstUnwritten s 928 i → 1 ≤ s.arg1.toNat → s.arg1.toNat ≤ 90 → 1 ≤ s.arg2.toNat → s.arg2.toNat ≤ 30 →
      s.arg3.toNat ≤ 8 → s.len.toNat = s.arg1.toNat * s.arg2.toNat →
      exec .pdfRows s = .fault (.unwritten .cw i)) ∧
    (FirstUnwritten s 255 i → ∀ (black1 : Bool) (kind : BitVec 4), kind.toNat < 8 →
      exec (.barWalk black1 kind) s = .fault (.unwritten .cw i))) ∧
  (∀ (s : State) (h w rv rh r c : Nat), s.arg1.toNat = h → s.arg2.toNat = w → s.arg3.toNat % 65536 = rv →
    s.arg3.toNat / 65536 = rh → 2 ≤ h → 2 ≤ w → h % 2 = 0 → w % 2 = 0 → 1 ≤ rv → 1 ≤ rh → rv * (h + 2) ≤ 256 →
    rh * (w + 2) ≤ 256 → FirstUnwrittenCell s.ga (rv * h) (rh * w) r c →
    exec .dmFrame s = .fault (.unwritten .ga (256 * r + c))) ∧
  (∀ (s : State) (selA : Bool) (r c : Nat), 1 ≤ s.arg1.toNat → s.arg1.toNat ≤ 256 → 1 ≤ s.arg2.toNat →
    s.arg2.toNat ≤ 256 → FirstUnwrittenCell (if selA then s.ga else s.gb) s.arg1.toNat s.arg2.toNat r c →
    exec (.gridEmit selA) s = .fault (.unwritten (if selA then .ga else .gb) (256 * r + c))) ∧
  (∀ (s : State) (black1 : Bool) (kind : BitVec 4) (xs : List Nat) (k : Nat), kind.toNat < 8 → CwHolds s xs →
    xs.length ≤ 4096 → (∀ x ∈ xs, x < 256) → k < xs.length →
    (∀ j, j < k → ∃ u ws, s.bt.read (xs.getD j 0) = some u ∧ EntryHolds u ws) → s.bt.read (xs.getD k 0) = none →
    exec (.barWalk black1 kind) s = .fault (.unwritten .bt (xs.getD k 0))) ∧
  (∀ (s : State) (xs : List Nat) (r c level y k v : Nat), CwHolds s xs → (∀ x ∈ xs, x ≤ 928) → s.arg1.toNat = r →
    s.arg2.toNat = c → s.arg3.toNat = level → 1 ≤ r → r ≤ 90 → 1 ≤ c → c ≤ 30 → level ≤ 8 → xs.length = r * c →
    y < r → (rowOfSymbol xs r c level y)[k]? = some v →
    (∀ y' k' v', (y' < y ∨ (y' = y ∧ k' < k)) → (rowOfSymbol xs r c level y')[k']? = some v' →
      ∃ q, s.pt.read ((y' % 3) * 1024 + v') = some q ∧ q.getLsbD 16 = true ∧ q.getLsbD 0 = false) →
    s.pt.read ((y % 3) * 1024 + v) = none →
    exec .pdfRows s = .fault (.unwritten .pt ((y % 3) * 1024 + v)))

/-- When every RAM entry has been written, every host transaction and every command word has an outcome in every mode: the
step goes on (R49, R187). -/
def Obligations.FullyWrittenMachineGoesOn : Prop :=
  ∀ s : State, s.Inv → fullyWritten s → Goes (step s)
end

