-- ==== Sys2Proof/Laws/State.lean ====
section
/-! SUPPORT. One lemma for each field and each named update of the state: what the field is after the update. -/

namespace Sys2Proof.Machine

/-! The issue of a command word. -/

@[simp] theorem issue_irqen (w : Word) (s : State) : (issue w s).irqen = s.irqen := rfl
@[simp] theorem issue_done (w : Word) (s : State) : (issue w s).done = false := rfl
@[simp] theorem issue_err (w : Word) (s : State) : (issue w s).err = false := rfl
@[simp] theorem issue_errcode (w : Word) (s : State) : (issue w s).errcode = s.errcode := rfl
@[simp] theorem issue_lastop (w : Word) (s : State) : (issue w s).lastop = w.extractLsb' 0 8 := rfl
@[simp] theorem issue_len (w : Word) (s : State) : (issue w s).len = s.len := rfl
@[simp] theorem issue_arg1 (w : Word) (s : State) : (issue w s).arg1 = s.arg1 := rfl
@[simp] theorem issue_arg2 (w : Word) (s : State) : (issue w s).arg2 = s.arg2 := rfl
@[simp] theorem issue_arg3 (w : Word) (s : State) : (issue w s).arg3 = s.arg3 := rfl
@[simp] theorem issue_result0 (w : Word) (s : State) : (issue w s).result0 = s.result0 := rfl
@[simp] theorem issue_result1 (w : Word) (s : State) : (issue w s).result1 = s.result1 := rfl
@[simp] theorem issue_evWptr (w : Word) (s : State) : (issue w s).evWptr = s.evWptr := rfl
@[simp] theorem issue_pdfStart (w : Word) (s : State) : (issue w s).pdfStart = s.pdfStart := rfl
@[simp] theorem issue_pdfStop (w : Word) (s : State) : (issue w s).pdfStop = s.pdfStop := rfl
@[simp] theorem issue_c128w0 (w : Word) (s : State) : (issue w s).c128w0 = s.c128w0 := rfl
@[simp] theorem issue_rmlit (w : Word) (s : State) : (issue w s).rmlit = s.rmlit := rfl
@[simp] theorem issue_fcsInit (w : Word) (s : State) : (issue w s).fcsInit = s.fcsInit := rfl
@[simp] theorem issue_cw (w : Word) (s : State) : (issue w s).cw = s.cw := rfl
@[simp] theorem issue_ga (w : Word) (s : State) : (issue w s).ga = s.ga := rfl
@[simp] theorem issue_gb (w : Word) (s : State) : (issue w s).gb = s.gb := rfl
@[simp] theorem issue_ev (w : Word) (s : State) : (issue w s).ev = s.ev := rfl
@[simp] theorem issue_bt (w : Word) (s : State) : (issue w s).bt = s.bt := rfl
@[simp] theorem issue_pt (w : Word) (s : State) : (issue w s).pt = s.pt := rfl
@[simp] theorem issue_gf (w : Word) (s : State) : (issue w s).gf = s.gf := rfl
@[simp] theorem issue_engine (w : Word) (s : State) : (issue w s).engine = .busy w := rfl
@[simp] theorem issue_turns (w : Word) (s : State) : (issue w s).turns = s.turns := rfl
@[simp] theorem issue_reply (w : Word) (s : State) : (issue w s).reply = s.reply := rfl
@[simp] theorem issue_epoch (w : Word) (s : State) : (issue w s).epoch = s.epoch := rfl
@[simp] theorem issue_draws (w : Word) (s : State) : (issue w s).draws = s.draws := rfl

/-! A host write to STATUS. -/

@[simp] theorem clearStatus_irqen (w : Word) (s : State) : (clearStatus w s).irqen = s.irqen := rfl
@[simp] theorem clearStatus_done (w : Word) (s : State) : (clearStatus w s).done = (s.done && !w.getLsbD 2) := rfl
@[simp] theorem clearStatus_err (w : Word) (s : State) : (clearStatus w s).err = (s.err && !w.getLsbD 3) := rfl
@[simp] theorem clearStatus_errcode (w : Word) (s : State) : (clearStatus w s).errcode = s.errcode := rfl
@[simp] theorem clearStatus_lastop (w : Word) (s : State) : (clearStatus w s).lastop = s.lastop := rfl
@[simp] theorem clearStatus_len (w : Word) (s : State) : (clearStatus w s).len = s.len := rfl
@[simp] theorem clearStatus_arg1 (w : Word) (s : State) : (clearStatus w s).arg1 = s.arg1 := rfl
@[simp] theorem clearStatus_arg2 (w : Word) (s : State) : (clearStatus w s).arg2 = s.arg2 := rfl
@[simp] theorem clearStatus_arg3 (w : Word) (s : State) : (clearStatus w s).arg3 = s.arg3 := rfl
@[simp] theorem clearStatus_result0 (w : Word) (s : State) : (clearStatus w s).result0 = s.result0 := rfl
@[simp] theorem clearStatus_result1 (w : Word) (s : State) : (clearStatus w s).result1 = s.result1 := rfl
@[simp] theorem clearStatus_evWptr (w : Word) (s : State) : (clearStatus w s).evWptr = s.evWptr := rfl
@[simp] theorem clearStatus_pdfStart (w : Word) (s : State) : (clearStatus w s).pdfStart = s.pdfStart := rfl
@[simp] theorem clearStatus_pdfStop (w : Word) (s : State) : (clearStatus w s).pdfStop = s.pdfStop := rfl
@[simp] theorem clearStatus_c128w0 (w : Word) (s : State) : (clearStatus w s).c128w0 = s.c128w0 := rfl
@[simp] theorem clearStatus_rmlit (w : Word) (s : State) : (clearStatus w s).rmlit = s.rmlit := rfl
@[simp] theorem clearStatus_fcsInit (w : Word) (s : State) : (clearStatus w s).fcsInit = s.fcsInit := rfl
@[simp] theorem clearStatus_cw (w : Word) (s : State) : (clearStatus w s).cw = s.cw := rfl
@[simp] theorem clearStatus_ga (w : Word) (s : State) : (clearStatus w s).ga = s.ga := rfl
@[simp] theorem clearStatus_gb (w : Word) (s : State) : (clearStatus w s).gb = s.gb := rfl
@[simp] theorem clearStatus_ev (w : Word) (s : State) : (clearStatus w s).ev = s.ev := rfl
@[simp] theorem clearStatus_bt (w : Word) (s : State) : (clearStatus w s).bt = s.bt := rfl
@[simp] theorem clearStatus_pt (w : Word) (s : State) : (clearStatus w s).pt = s.pt := rfl
@[simp] theorem clearStatus_gf (w : Word) (s : State) : (clearStatus w s).gf = s.gf := rfl
@[simp] theorem clearStatus_engine (w : Word) (s : State) : (clearStatus w s).engine = s.engine := rfl
@[simp] theorem clearStatus_turns (w : Word) (s : State) : (clearStatus w s).turns = s.turns := rfl
@[simp] theorem clearStatus_reply (w : Word) (s : State) : (clearStatus w s).reply = s.reply := rfl
@[simp] theorem clearStatus_epoch (w : Word) (s : State) : (clearStatus w s).epoch = s.epoch := rfl
@[simp] theorem clearStatus_draws (w : Word) (s : State) : (clearStatus w s).draws = s.draws := rfl

/-! The completion of a command. -/

@[simp] theorem complete_irqen (r0 r1 : Nat) (s : State) : (complete r0 r1 s).irqen = s.irqen := rfl
@[simp] theorem complete_done (r0 r1 : Nat) (s : State) : (complete r0 r1 s).done = true := rfl
@[simp] theorem complete_err (r0 r1 : Nat) (s : State) : (complete r0 r1 s).err = s.err := rfl
@[simp] theorem complete_errcode (r0 r1 : Nat) (s : State) : (complete r0 r1 s).errcode = .none := rfl
@[simp] theorem complete_lastop (r0 r1 : Nat) (s : State) : (complete r0 r1 s).lastop = s.lastop := rfl
@[simp] theorem complete_len (r0 r1 : Nat) (s : State) : (complete r0 r1 s).len = s.len := rfl
@[simp] theorem complete_arg1 (r0 r1 : Nat) (s : State) : (complete r0 r1 s).arg1 = s.arg1 := rfl
@[simp] theorem complete_arg2 (r0 r1 : Nat) (s : State) : (complete r0 r1 s).arg2 = s.arg2 := rfl
@[simp] theorem complete_arg3 (r0 r1 : Nat) (s : State) : (complete r0 r1 s).arg3 = s.arg3 := rfl
@[simp] theorem complete_result0 (r0 r1 : Nat) (s : State) : (complete r0 r1 s).result0 = resultWord r0 := rfl
@[simp] theorem complete_result1 (r0 r1 : Nat) (s : State) : (complete r0 r1 s).result1 = resultWord r1 := rfl
@[simp] theorem complete_evWptr (r0 r1 : Nat) (s : State) : (complete r0 r1 s).evWptr = s.evWptr := rfl
@[simp] theorem complete_pdfStart (r0 r1 : Nat) (s : State) : (complete r0 r1 s).pdfStart = s.pdfStart := rfl
@[simp] theorem complete_pdfStop (r0 r1 : Nat) (s : State) : (complete r0 r1 s).pdfStop = s.pdfStop := rfl
@[simp] theorem complete_c128w0 (r0 r1 : Nat) (s : State) : (complete r0 r1 s).c128w0 = s.c128w0 := rfl
@[simp] theorem complete_rmlit (r0 r1 : Nat) (s : State) : (complete r0 r1 s).rmlit = s.rmlit := rfl
@[simp] theorem complete_fcsInit (r0 r1 : Nat) (s : State) : (complete r0 r1 s).fcsInit = s.fcsInit := rfl
@[simp] theorem complete_cw (r0 r1 : Nat) (s : State) : (complete r0 r1 s).cw = s.cw := rfl
@[simp] theorem complete_ga (r0 r1 : Nat) (s : State) : (complete r0 r1 s).ga = s.ga := rfl
@[simp] theorem complete_gb (r0 r1 : Nat) (s : State) : (complete r0 r1 s).gb = s.gb := rfl
@[simp] theorem complete_ev (r0 r1 : Nat) (s : State) : (complete r0 r1 s).ev = s.ev := rfl
@[simp] theorem complete_bt (r0 r1 : Nat) (s : State) : (complete r0 r1 s).bt = s.bt := rfl
@[simp] theorem complete_pt (r0 r1 : Nat) (s : State) : (complete r0 r1 s).pt = s.pt := rfl
@[simp] theorem complete_gf (r0 r1 : Nat) (s : State) : (complete r0 r1 s).gf = s.gf := rfl
@[simp] theorem complete_engine (r0 r1 : Nat) (s : State) : (complete r0 r1 s).engine = .idle := rfl
@[simp] theorem complete_turns (r0 r1 : Nat) (s : State) : (complete r0 r1 s).turns = s.turns := rfl
@[simp] theorem complete_reply (r0 r1 : Nat) (s : State) : (complete r0 r1 s).reply = s.reply := rfl
@[simp] theorem complete_epoch (r0 r1 : Nat) (s : State) : (complete r0 r1 s).epoch = s.epoch := rfl
@[simp] theorem complete_draws (r0 r1 : Nat) (s : State) : (complete r0 r1 s).draws = s.draws := rfl

/-! The error of a command. -/

@[simp] theorem raiseError_irqen (code : ErrCode) (r0 r1 : Nat) (s : State) : (raiseError code r0 r1 s).irqen = s.irqen := rfl
@[simp] theorem raiseError_done (code : ErrCode) (r0 r1 : Nat) (s : State) : (raiseError code r0 r1 s).done = s.done := rfl
@[simp] theorem raiseError_err (code : ErrCode) (r0 r1 : Nat) (s : State) : (raiseError code r0 r1 s).err = true := rfl
@[simp] theorem raiseError_errcode (code : ErrCode) (r0 r1 : Nat) (s : State) : (raiseError code r0 r1 s).errcode = code := rfl
@[simp] theorem raiseError_lastop (code : ErrCode) (r0 r1 : Nat) (s : State) : (raiseError code r0 r1 s).lastop = s.lastop := rfl
@[simp] theorem raiseError_len (code : ErrCode) (r0 r1 : Nat) (s : State) : (raiseError code r0 r1 s).len = s.len := rfl
@[simp] theorem raiseError_arg1 (code : ErrCode) (r0 r1 : Nat) (s : State) : (raiseError code r0 r1 s).arg1 = s.arg1 := rfl
@[simp] theorem raiseError_arg2 (code : ErrCode) (r0 r1 : Nat) (s : State) : (raiseError code r0 r1 s).arg2 = s.arg2 := rfl
@[simp] theorem raiseError_arg3 (code : ErrCode) (r0 r1 : Nat) (s : State) : (raiseError code r0 r1 s).arg3 = s.arg3 := rfl
@[simp] theorem raiseError_result0 (code : ErrCode) (r0 r1 : Nat) (s : State) : (raiseError code r0 r1 s).result0 = resultWord r0 := rfl
@[simp] theorem raiseError_result1 (code : ErrCode) (r0 r1 : Nat) (s : State) : (raiseError code r0 r1 s).result1 = resultWord r1 := rfl
@[simp] theorem raiseError_evWptr (code : ErrCode) (r0 r1 : Nat) (s : State) : (raiseError code r0 r1 s).evWptr = s.evWptr := rfl
@[simp] theorem raiseError_pdfStart (code : ErrCode) (r0 r1 : Nat) (s : State) : (raiseError code r0 r1 s).pdfStart = s.pdfStart := rfl
@[simp] theorem raiseError_pdfStop (code : ErrCode) (r0 r1 : Nat) (s : State) : (raiseError code r0 r1 s).pdfStop = s.pdfStop := rfl
@[simp] theorem raiseError_c128w0 (code : ErrCode) (r0 r1 : Nat) (s : State) : (raiseError code r0 r1 s).c128w0 = s.c128w0 := rfl
@[simp] theorem raiseError_rmlit (code : ErrCode) (r0 r1 : Nat) (s : State) : (raiseError code r0 r1 s).rmlit = s.rmlit := rfl
@[simp] theorem raiseError_fcsInit (code : ErrCode) (r0 r1 : Nat) (s : State) : (raiseError code r0 r1 s).fcsInit = s.fcsInit := rfl
@[simp] theorem raiseError_cw (code : ErrCode) (r0 r1 : Nat) (s : State) : (raiseError code r0 r1 s).cw = s.cw := rfl
@[simp] theorem raiseError_ga (code : ErrCode) (r0 r1 : Nat) (s : State) : (raiseError code r0 r1 s).ga = s.ga := rfl
@[simp] theorem raiseError_gb (code : ErrCode) (r0 r1 : Nat) (s : State) : (raiseError code r0 r1 s).gb = s.gb := rfl
@[simp] theorem raiseError_ev (code : ErrCode) (r0 r1 : Nat) (s : State) : (raiseError code r0 r1 s).ev = s.ev := rfl
@[simp] theorem raiseError_bt (code : ErrCode) (r0 r1 : Nat) (s : State) : (raiseError code r0 r1 s).bt = s.bt := rfl
@[simp] theorem raiseError_pt (code : ErrCode) (r0 r1 : Nat) (s : State) : (raiseError code r0 r1 s).pt = s.pt := rfl
@[simp] theorem raiseError_gf (code : ErrCode) (r0 r1 : Nat) (s : State) : (raiseError code r0 r1 s).gf = s.gf := rfl
@[simp] theorem raiseError_engine (code : ErrCode) (r0 r1 : Nat) (s : State) : (raiseError code r0 r1 s).engine = .idle := rfl
@[simp] theorem raiseError_turns (code : ErrCode) (r0 r1 : Nat) (s : State) : (raiseError code r0 r1 s).turns = s.turns := rfl
@[simp] theorem raiseError_reply (code : ErrCode) (r0 r1 : Nat) (s : State) : (raiseError code r0 r1 s).reply = s.reply := rfl
@[simp] theorem raiseError_epoch (code : ErrCode) (r0 r1 : Nat) (s : State) : (raiseError code r0 r1 s).epoch = s.epoch := rfl
@[simp] theorem raiseError_draws (code : ErrCode) (r0 r1 : Nat) (s : State) : (raiseError code r0 r1 s).draws = s.draws := rfl

/-! GA after a dynamic error of DM_PLACE. -/

@[simp] theorem scrambleGa_irqen (s : State) (rows cols : Nat) : (scrambleGa s rows cols).irqen = s.irqen := rfl
@[simp] theorem scrambleGa_done (s : State) (rows cols : Nat) : (scrambleGa s rows cols).done = s.done := rfl
@[simp] theorem scrambleGa_err (s : State) (rows cols : Nat) : (scrambleGa s rows cols).err = s.err := rfl
@[simp] theorem scrambleGa_errcode (s : State) (rows cols : Nat) : (scrambleGa s rows cols).errcode = s.errcode := rfl
@[simp] theorem scrambleGa_lastop (s : State) (rows cols : Nat) : (scrambleGa s rows cols).lastop = s.lastop := rfl
@[simp] theorem scrambleGa_len (s : State) (rows cols : Nat) : (scrambleGa s rows cols).len = s.len := rfl
@[simp] theorem scrambleGa_arg1 (s : State) (rows cols : Nat) : (scrambleGa s rows cols).arg1 = s.arg1 := rfl
@[simp] theorem scrambleGa_arg2 (s : State) (rows cols : Nat) : (scrambleGa s rows cols).arg2 = s.arg2 := rfl
@[simp] theorem scrambleGa_arg3 (s : State) (rows cols : Nat) : (scrambleGa s rows cols).arg3 = s.arg3 := rfl
@[simp] theorem scrambleGa_result0 (s : State) (rows cols : Nat) : (scrambleGa s rows cols).result0 = s.result0 := rfl
@[simp] theorem scrambleGa_result1 (s : State) (rows cols : Nat) : (scrambleGa s rows cols).result1 = s.result1 := rfl
@[simp] theorem scrambleGa_evWptr (s : State) (rows cols : Nat) : (scrambleGa s rows cols).evWptr = s.evWptr := rfl
@[simp] theorem scrambleGa_pdfStart (s : State) (rows cols : Nat) : (scrambleGa s rows cols).pdfStart = s.pdfStart := rfl
@[simp] theorem scrambleGa_pdfStop (s : State) (rows cols : Nat) : (scrambleGa s rows cols).pdfStop = s.pdfStop := rfl
@[simp] theorem scrambleGa_c128w0 (s : State) (rows cols : Nat) : (scrambleGa s rows cols).c128w0 = s.c128w0 := rfl
@[simp] theorem scrambleGa_rmlit (s : State) (rows cols : Nat) : (scrambleGa s rows cols).rmlit = s.rmlit := rfl
@[simp] theorem scrambleGa_fcsInit (s : State) (rows cols : Nat) : (scrambleGa s rows cols).fcsInit = s.fcsInit := rfl
@[simp] theorem scrambleGa_cw (s : State) (rows cols : Nat) : (scrambleGa s rows cols).cw = s.cw := rfl
@[simp] theorem scrambleGa_ga (s : State) (rows cols : Nat) : (scrambleGa s rows cols).ga = s.ga.writeRect rows cols (fun r c => cellOfCode (Config.freeGa s.draws (cellIndex r c))) := rfl
@[simp] theorem scrambleGa_gb (s : State) (rows cols : Nat) : (scrambleGa s rows cols).gb = s.gb := rfl
@[simp] theorem scrambleGa_ev (s : State) (rows cols : Nat) : (scrambleGa s rows cols).ev = s.ev := rfl
@[simp] theorem scrambleGa_bt (s : State) (rows cols : Nat) : (scrambleGa s rows cols).bt = s.bt := rfl
@[simp] theorem scrambleGa_pt (s : State) (rows cols : Nat) : (scrambleGa s rows cols).pt = s.pt := rfl
@[simp] theorem scrambleGa_gf (s : State) (rows cols : Nat) : (scrambleGa s rows cols).gf = s.gf := rfl
@[simp] theorem scrambleGa_engine (s : State) (rows cols : Nat) : (scrambleGa s rows cols).engine = s.engine := rfl
@[simp] theorem scrambleGa_turns (s : State) (rows cols : Nat) : (scrambleGa s rows cols).turns = s.turns := rfl
@[simp] theorem scrambleGa_reply (s : State) (rows cols : Nat) : (scrambleGa s rows cols).reply = s.reply := rfl
@[simp] theorem scrambleGa_epoch (s : State) (rows cols : Nat) : (scrambleGa s rows cols).epoch = s.epoch := rfl
@[simp] theorem scrambleGa_draws (s : State) (rows cols : Nat) : (scrambleGa s rows cols).draws = s.draws + 1 := rfl

/-! The end of the initialisation. -/

@[simp] theorem finishInit_irqen (s : State) : (finishInit s).irqen = s.irqen := rfl
@[simp] theorem finishInit_done (s : State) : (finishInit s).done = s.done := rfl
@[simp] theorem finishInit_err (s : State) : (finishInit s).err = s.err := rfl
@[simp] theorem finishInit_errcode (s : State) : (finishInit s).errcode = s.errcode := rfl
@[simp] theorem finishInit_lastop (s : State) : (finishInit s).lastop = s.lastop := rfl
@[simp] theorem finishInit_len (s : State) : (finishInit s).len = s.len := rfl
@[simp] theorem finishInit_arg1 (s : State) : (finishInit s).arg1 = s.arg1 := rfl
@[simp] theorem finishInit_arg2 (s : State) : (finishInit s).arg2 = s.arg2 := rfl
@[simp] theorem finishInit_arg3 (s : State) : (finishInit s).arg3 = s.arg3 := rfl
@[simp] theorem finishInit_result0 (s : State) : (finishInit s).result0 = s.result0 := rfl
@[simp] theorem finishInit_result1 (s : State) : (finishInit s).result1 = s.result1 := rfl
@[simp] theorem finishInit_evWptr (s : State) : (finishInit s).evWptr = s.evWptr := rfl
@[simp] theorem finishInit_pdfStart (s : State) : (finishInit s).pdfStart = s.pdfStart := rfl
@[simp] theorem finishInit_pdfStop (s : State) : (finishInit s).pdfStop = s.pdfStop := rfl
@[simp] theorem finishInit_c128w0 (s : State) : (finishInit s).c128w0 = s.c128w0 := rfl
@[simp] theorem finishInit_rmlit (s : State) : (finishInit s).rmlit = s.rmlit := rfl
@[simp] theorem finishInit_fcsInit (s : State) : (finishInit s).fcsInit = s.fcsInit := rfl
@[simp] theorem finishInit_cw (s : State) : (finishInit s).cw = s.cw := rfl
@[simp] theorem finishInit_ga (s : State) : (finishInit s).ga = s.ga := rfl
@[simp] theorem finishInit_gb (s : State) : (finishInit s).gb = s.gb := rfl
@[simp] theorem finishInit_ev (s : State) : (finishInit s).ev = s.ev := rfl
@[simp] theorem finishInit_bt (s : State) : (finishInit s).bt = s.bt := rfl
@[simp] theorem finishInit_pt (s : State) : (finishInit s).pt = s.pt := rfl
@[simp] theorem finishInit_gf (s : State) : (finishInit s).gf = some gfTables := rfl
@[simp] theorem finishInit_engine (s : State) : (finishInit s).engine = .idle := rfl
@[simp] theorem finishInit_turns (s : State) : (finishInit s).turns = s.turns := rfl
@[simp] theorem finishInit_reply (s : State) : (finishInit s).reply = s.reply := rfl
@[simp] theorem finishInit_epoch (s : State) : (finishInit s).epoch = s.epoch := rfl
@[simp] theorem finishInit_draws (s : State) : (finishInit s).draws = s.draws := rfl

/-! The power-on reset. -/

@[simp] theorem powerOn_irqen (s : State) : (powerOn s).irqen = State.reset.irqen := rfl
@[simp] theorem powerOn_done (s : State) : (powerOn s).done = State.reset.done := rfl
@[simp] theorem powerOn_err (s : State) : (powerOn s).err = State.reset.err := rfl
@[simp] theorem powerOn_errcode (s : State) : (powerOn s).errcode = State.reset.errcode := rfl
@[simp] theorem powerOn_lastop (s : State) : (powerOn s).lastop = State.reset.lastop := rfl
@[simp] theorem powerOn_len (s : State) : (powerOn s).len = State.reset.len := rfl
@[simp] theorem powerOn_arg1 (s : State) : (powerOn s).arg1 = State.reset.arg1 := rfl
@[simp] theorem powerOn_arg2 (s : State) : (powerOn s).arg2 = State.reset.arg2 := rfl
@[simp] theorem powerOn_arg3 (s : State) : (powerOn s).arg3 = State.reset.arg3 := rfl
@[simp] theorem powerOn_result0 (s : State) : (powerOn s).result0 = State.reset.result0 := rfl
@[simp] theorem powerOn_result1 (s : State) : (powerOn s).result1 = State.reset.result1 := rfl
@[simp] theorem powerOn_evWptr (s : State) : (powerOn s).evWptr = State.reset.evWptr := rfl
@[simp] theorem powerOn_pdfStart (s : State) : (powerOn s).pdfStart = State.reset.pdfStart := rfl
@[simp] theorem powerOn_pdfStop (s : State) : (powerOn s).pdfStop = State.reset.pdfStop := rfl
@[simp] theorem powerOn_c128w0 (s : State) : (powerOn s).c128w0 = State.reset.c128w0 := rfl
@[simp] theorem powerOn_rmlit (s : State) : (powerOn s).rmlit = State.reset.rmlit := rfl
@[simp] theorem powerOn_fcsInit (s : State) : (powerOn s).fcsInit = State.reset.fcsInit := rfl
@[simp] theorem powerOn_cw (s : State) : (powerOn s).cw = State.reset.cw := rfl
@[simp] theorem powerOn_ga (s : State) : (powerOn s).ga = State.reset.ga := rfl
@[simp] theorem powerOn_gb (s : State) : (powerOn s).gb = State.reset.gb := rfl
@[simp] theorem powerOn_ev (s : State) : (powerOn s).ev = State.reset.ev := rfl
@[simp] theorem powerOn_bt (s : State) : (powerOn s).bt = State.reset.bt := rfl
@[simp] theorem powerOn_pt (s : State) : (powerOn s).pt = State.reset.pt := rfl
@[simp] theorem powerOn_gf (s : State) : (powerOn s).gf = State.reset.gf := rfl
@[simp] theorem powerOn_engine (s : State) : (powerOn s).engine = State.reset.engine := rfl
@[simp] theorem powerOn_turns (s : State) : (powerOn s).turns = s.turns := rfl
@[simp] theorem powerOn_reply (s : State) : (powerOn s).reply = State.reset.reply := rfl
@[simp] theorem powerOn_epoch (s : State) : (powerOn s).epoch = s.draws := rfl
@[simp] theorem powerOn_draws (s : State) : (powerOn s).draws = s.draws + 1 := rfl

/-! The soft reset. -/

@[simp] theorem softReset_irqen (s : State) : (softReset s).irqen = State.reset.irqen := rfl
@[simp] theorem softReset_done (s : State) : (softReset s).done = State.reset.done := rfl
@[simp] theorem softReset_err (s : State) : (softReset s).err = State.reset.err := rfl
@[simp] theorem softReset_errcode (s : State) : (softReset s).errcode = State.reset.errcode := rfl
@[simp] theorem softReset_lastop (s : State) : (softReset s).lastop = State.reset.lastop := rfl
@[simp] theorem softReset_len (s : State) : (softReset s).len = State.reset.len := rfl
@[simp] theorem softReset_arg1 (s : State) : (softReset s).arg1 = State.reset.arg1 := rfl
@[simp] theorem softReset_arg2 (s : State) : (softReset s).arg2 = State.reset.arg2 := rfl
@[simp] theorem softReset_arg3 (s : State) : (softReset s).arg3 = State.reset.arg3 := rfl
@[simp] theorem softReset_result0 (s : State) : (softReset s).result0 = State.reset.result0 := rfl
@[simp] theorem softReset_result1 (s : State) : (softReset s).result1 = State.reset.result1 := rfl
@[simp] theorem softReset_evWptr (s : State) : (softReset s).evWptr = State.reset.evWptr := rfl
@[simp] theorem softReset_pdfStart (s : State) : (softReset s).pdfStart = State.reset.pdfStart := rfl
@[simp] theorem softReset_pdfStop (s : State) : (softReset s).pdfStop = State.reset.pdfStop := rfl
@[simp] theorem softReset_c128w0 (s : State) : (softReset s).c128w0 = State.reset.c128w0 := rfl
@[simp] theorem softReset_rmlit (s : State) : (softReset s).rmlit = State.reset.rmlit := rfl
@[simp] theorem softReset_fcsInit (s : State) : (softReset s).fcsInit = State.reset.fcsInit := rfl
@[simp] theorem softReset_cw (s : State) : (softReset s).cw = (abandon s).cw := rfl
@[simp] theorem softReset_ga (s : State) : (softReset s).ga = (abandon s).ga := rfl
@[simp] theorem softReset_gb (s : State) : (softReset s).gb = (abandon s).gb := rfl
@[simp] theorem softReset_ev (s : State) : (softReset s).ev = (abandon s).ev := rfl
@[simp] theorem softReset_bt (s : State) : (softReset s).bt = (abandon s).bt := rfl
@[simp] theorem softReset_pt (s : State) : (softReset s).pt = (abandon s).pt := rfl
@[simp] theorem softReset_gf (s : State) : (softReset s).gf = State.reset.gf := rfl
@[simp] theorem softReset_engine (s : State) : (softReset s).engine = State.reset.engine := rfl
@[simp] theorem softReset_turns (s : State) : (softReset s).turns = s.turns := rfl
@[simp] theorem softReset_reply (s : State) : (softReset s).reply = s.reply := rfl
@[simp] theorem softReset_epoch (s : State) : (softReset s).epoch = s.epoch := rfl
@[simp] theorem softReset_draws (s : State) : (softReset s).draws = (abandon s).draws := rfl

end Sys2Proof.Machine
end

