-- ==== Sys2Proof/Laws/Ram.lean ====
section
/-! SUPPORT. The RAM operations: what an entry reads as after a write, and that every operation keeps a RAM's
canonical form and its depth. -/

namespace Sys2Proof.Machine

variable {α : Type}

@[simp] theorem Ram.read_nil (i : Nat) : Ram.read ([] : Ram α) i = none := rfl

theorem Ram.read_append (m n : Ram α) (i : Nat) :
    Ram.read (m ++ n) i = (Ram.read m i).or (Ram.read n i) := by
  induction m with
  | nil => simp
  | cons p m ih =>
    obtain ⟨j, v⟩ := p
    simp only [List.cons_append, Ram.read]
    split <;> simp [ih]

theorem Ram.read_filter (m : Ram α) (keep : Nat → Bool) (i : Nat) :
    Ram.read (m.filter (fun p => keep p.1)) i = if keep i = true then Ram.read m i else none := by
  induction m with
  | nil => simp
  | cons p m ih =>
    obtain ⟨j, v⟩ := p
    by_cases hj : keep j = true
    · by_cases hij : j = i
      · subst hij; simp [Ram.read, hj]
      · simp [Ram.read, hj, hij, ih]
    · by_cases hij : j = i
      · subst hij; simp [hj, ih]
      · simp [Ram.read, hj, hij, ih]

theorem Ram.read_block (lo : Nat) (vs : List α) (i : Nat) :
    Ram.read (Ram.block lo vs) i = if lo ≤ i then vs[i - lo]? else none := by
  induction vs generalizing lo with
  | nil => simp [Ram.block]
  | cons v vs ih =>
    simp only [Ram.block, Ram.read, ih]
    by_cases h : lo = i
    · subst h; simp
    · by_cases h2 : lo ≤ i
      · obtain ⟨d, rfl⟩ : ∃ d, i = lo + 1 + d := ⟨i - lo - 1, by omega⟩
        have e : lo + 1 + d - lo = (lo + 1 + d - (lo + 1)) + 1 := by omega
        rw [e]; simp [h]
        omega
      · simp [h, h2]; omega

/-- Reading after a block write: an entry of the block holds its value, every other entry what it held. -/
theorem Ram.read_writeBlock (m : Ram α) (lo : Nat) (vs : List α) (i : Nat) :
    (m.writeBlock lo vs).read i =
      if lo ≤ i ∧ i < lo + vs.length then vs[i - lo]? else m.read i := by
  have hlt := Ram.read_filter m (fun j => decide (j < lo)) i
  have hge := Ram.read_filter m (fun j => decide (lo + vs.length ≤ j)) i
  simp only [decide_eq_true_eq] at hlt hge
  unfold Ram.writeBlock
  rw [Ram.read_append, Ram.read_append, hlt, hge, Ram.read_block]
  by_cases h1 : i < lo
  · have h2 : ¬ lo ≤ i := by omega
    have h3 : ¬ lo + vs.length ≤ i := by omega
    simp [h1, h2, h3]
  · by_cases h2 : lo + vs.length ≤ i
    · have h3 : lo ≤ i := by omega
      have h4 : ¬ i < lo + vs.length := by omega
      have h5 : vs[i - lo]? = none := by simp; omega
      simp [h1, h2, h3, h4, h5]
    · have h3 : lo ≤ i := by omega
      have h4 : i < lo + vs.length := by omega
      simp [h1, h2, h3, h4]

/-- Reading after a block write, outside the block. -/
theorem Ram.read_writeBlock_of_outside (m : Ram α) (lo : Nat) (vs : List α) (i : Nat)
    (h : i < lo ∨ lo + vs.length ≤ i) : (m.writeBlock lo vs).read i = m.read i := by
  rw [Ram.read_writeBlock, if_neg (by omega)]

/-- Reading after the write of one entry. -/
theorem Ram.read_write (m : Ram α) (i : Nat) (v : α) (j : Nat) :
    (m.write i v).read j = if j = i then some v else m.read j := by
  rw [Ram.write, Ram.read_writeBlock]
  by_cases h : j = i
  · subst h; simp
  · have : ¬ (i ≤ j ∧ j < i + [v].length) := by simp; omega
    rw [if_neg this, if_neg h]

/-- Reading after a rectangle write, by the index of a cell. -/
theorem Ram.read_writeRect (m : Ram Cell) (rows cols : Nat) (f : Nat → Nat → Cell) (r c : Nat)
    (hcols : cols ≤ Config.gridDim) (hc : c < Config.gridDim) :
    (m.writeRect rows cols f).read (cellIndex r c) =
      if r < rows ∧ c < cols then some (f r c) else m.read (cellIndex r c) := by
  unfold Ram.writeRect
  induction rows with
  | zero => simp
  | succ n ih =>
    rw [List.range_succ, List.foldl_append]
    simp only [List.foldl_cons, List.foldl_nil]
    rw [Ram.read_writeBlock, ih]
    simp only [cellIndex, List.length_map, List.length_range, Nat.add_zero]
    by_cases hr : r = n
    · subst hr
      by_cases h : c < cols
      · have h1 : r * Config.gridDim ≤ r * Config.gridDim + c ∧
            r * Config.gridDim + c < r * Config.gridDim + cols := by omega
        have h2 : r * Config.gridDim + c - r * Config.gridDim = c := by omega
        rw [if_pos h1, h2]
        simp [h]
      · have h1 : ¬ (r * Config.gridDim ≤ r * Config.gridDim + c ∧
            r * Config.gridDim + c < r * Config.gridDim + cols) := by omega
        rw [if_neg h1]
        simp [h]
    · have h1 : ¬ (n * Config.gridDim ≤ r * Config.gridDim + c ∧
          r * Config.gridDim + c < n * Config.gridDim + cols) := by
        simp only [Config.gridDim] at *
        omega
      rw [if_neg h1]
      have h2 : (r < n ∧ c < cols) ↔ (r < n + 1 ∧ c < cols) := by omega
      simp only [h2]

/-! ## Canonical form -/

theorem Ram.sorted_iff (m : Ram α) : m.sorted = true ↔ m.Pairwise (fun p q => p.1 < q.1) := by
  induction m with
  | nil => simp [Ram.sorted]
  | cons p m ih =>
    cases m with
    | nil => simp [Ram.sorted]
    | cons q m =>
      simp only [Ram.sorted, Bool.and_eq_true, decide_eq_true_eq, ih, List.pairwise_cons]
      constructor
      · rintro ⟨h, h1, h2⟩
        refine ⟨?_, h1, h2⟩
        intro x hx
        rcases List.mem_cons.1 hx with rfl | hx
        · exact h
        · exact Nat.lt_trans h (h1 x hx)
      · rintro ⟨h, h1, h2⟩
        exact ⟨h q (by simp), h1, h2⟩

theorem Ram.mem_block (lo : Nat) (vs : List α) (p : Nat × α) (h : p ∈ Ram.block lo vs) :
    lo ≤ p.1 ∧ p.1 < lo + vs.length := by
  induction vs generalizing lo with
  | nil => simp [Ram.block] at h
  | cons v vs ih =>
    simp only [Ram.block, List.mem_cons] at h
    rcases h with rfl | h
    · simp
    · have := ih _ h
      simp only [List.length_cons]
      omega

theorem Ram.pairwise_block (lo : Nat) (vs : List α) :
    (Ram.block lo vs).Pairwise (fun p q => p.1 < q.1) := by
  induction vs generalizing lo with
  | nil => simp [Ram.block]
  | cons v vs ih =>
    simp only [Ram.block, List.pairwise_cons]
    exact ⟨fun p hp => by have := Ram.mem_block _ _ _ hp; simp; omega, ih _⟩

/-- A block write keeps the canonical form. -/
theorem Ram.sorted_writeBlock (m : Ram α) (lo : Nat) (vs : List α) (h : m.sorted = true) :
    (m.writeBlock lo vs).sorted = true := by
  rw [Ram.sorted_iff] at *
  unfold Ram.writeBlock
  rw [List.append_assoc, List.pairwise_append, List.pairwise_append]
  refine ⟨h.filter _, ⟨Ram.pairwise_block _ _, h.filter _, ?_⟩, ?_⟩
  · intro p hp q hq
    have := Ram.mem_block _ _ _ hp
    simp only [List.mem_filter, decide_eq_true_eq] at hq
    omega
  · intro p hp q hq
    simp only [List.mem_filter, decide_eq_true_eq, List.mem_append] at hp hq
    rcases hq with hq | hq
    · have := Ram.mem_block _ _ _ hq
      omega
    · omega

/-- The write of one entry keeps the canonical form. -/
theorem Ram.sorted_write (m : Ram α) (i : Nat) (v : α) (h : m.sorted = true) :
    (m.write i v).sorted = true := Ram.sorted_writeBlock m i [v] h

/-- A rectangle write keeps the canonical form. -/
theorem Ram.sorted_writeRect (m : Ram Cell) (rows cols : Nat) (f : Nat → Nat → Cell)
    (h : m.sorted = true) : (m.writeRect rows cols f).sorted = true := by
  unfold Ram.writeRect
  induction rows with
  | zero => simpa using h
  | succ n ih =>
    rw [List.range_succ, List.foldl_append]
    exact Ram.sorted_writeBlock _ _ _ ih

/-- A block write lists no index outside a set that holds the old indices and the block's. -/
theorem Ram.all_writeBlock (m : Ram α) (lo : Nat) (vs : List α) (ok : Nat → Bool)
    (h : m.all (fun p => ok p.1) = true) (hb : ∀ i, lo ≤ i → i < lo + vs.length → ok i = true) :
    (m.writeBlock lo vs).all (fun p => ok p.1) = true := by
  unfold Ram.writeBlock
  simp only [List.all_eq_true, List.mem_append, List.mem_filter] at *
  rintro p ((hp | hp) | hp)
  · exact h p hp.1
  · have := Ram.mem_block _ _ _ hp
    exact hb _ this.1 this.2
  · exact h p hp.1

/-- A block write inside the depth keeps every index below it. -/
theorem Ram.below_writeBlock (m : Ram α) (lo : Nat) (vs : List α) (depth : Nat)
    (h : m.below depth = true) (hb : lo + vs.length ≤ depth) :
    (m.writeBlock lo vs).below depth = true :=
  Ram.all_writeBlock m lo vs (fun i => decide (i < depth)) h (fun i _ h2 => by simp; omega)

/-- A rectangle write inside the grid keeps every index inside the grid. -/
theorem Ram.below_writeRect (m : Ram Cell) (rows cols : Nat) (f : Nat → Nat → Cell)
    (h : m.below (Config.gridDim * Config.gridDim) = true)
    (hr : rows ≤ Config.gridDim) (hc : cols ≤ Config.gridDim) :
    (m.writeRect rows cols f).below (Config.gridDim * Config.gridDim) = true := by
  unfold Ram.writeRect
  induction rows with
  | zero => simpa using h
  | succ n ih =>
    rw [List.range_succ, List.foldl_append]
    refine Ram.below_writeBlock _ _ _ _ (ih (by omega)) ?_
    simp only [cellIndex, List.length_map, List.length_range, Config.gridDim] at *
    omega

end Sys2Proof.Machine
end

