-- ==== Sys2Proof/Laws/Ops.lean ====
section
/-! SUPPORT. One lemma for each shared operation that says once what it can do: the checks, the reads of a command, its
end, and the emission of events. -/

namespace Sys2Proof.Machine

/-! ## The work of a command -/

@[simp] theorem work_ok_bind {α β : Type} (a : α) (f : α → Work β) : (Except.ok a >>= f) = f a := rfl

@[simp] theorem work_error_bind {α β : Type} (h : Halt) (f : α → Work β) :
    ((Except.error h : Work α) >>= f) = .error h := rfl

/-- A sequence of work delivers a value exactly when each part does. -/
theorem work_bind_eq_ok {α β : Type} (x : Work α) (f : α → Work β) (b : β) :
    (x >>= f) = .ok b ↔ ∃ a, x = .ok a ∧ f a = .ok b := by
  cases x <;> simp

/-- A sequence of work stops exactly when one part does, the parts before it having delivered. -/
theorem work_bind_eq_error {α β : Type} (x : Work α) (f : α → Work β) (h : Halt) :
    (x >>= f) = .error h ↔ x = .error h ∨ ∃ a, x = .ok a ∧ f a = .error h := by
  cases x <;> simp

@[simp] theorem require_true (code : ErrCode) (r0 r1 : Nat) : require true code r0 r1 = .ok () := rfl

@[simp] theorem require_false (code : ErrCode) (r0 r1 : Nat) :
    require false code r0 r1 = .error (.error code r0 r1) := rfl

/-- A check lets the work go on exactly when it holds. -/
theorem require_eq_ok (ok : Bool) (code : ErrCode) (r0 r1 : Nat) (u : Unit) :
    require ok code r0 r1 = .ok u ↔ ok = true := by
  cases ok <;> simp

/-- A check stops the work exactly when it fails, with its own error. -/
theorem require_eq_error (ok : Bool) (code : ErrCode) (r0 r1 : Nat) (h : Halt) :
    require ok code r0 r1 = .error h ↔ ok = false ∧ h = .error code r0 r1 := by
  cases ok <;> simp [eq_comm]

@[simp] theorem finish_ok (s t : State) : finish s (.ok t) = .next t := rfl

@[simp] theorem finish_error (s : State) (code : ErrCode) (r0 r1 : Nat) :
    finish s (.error (.error code r0 r1)) = .next (raiseError code r0 r1 s) := rfl

@[simp] theorem finish_fault (s : State) (f : Fault) : finish s (.error (.fault f)) = .fault f := rfl

/-- The end of a command that goes on: its own next state, or the state of its error. -/
theorem finish_eq_next (s t : State) (w : Work State) :
    finish s w = .next t ↔
      w = .ok t ∨ ∃ code r0 r1, w = .error (.error code r0 r1) ∧ t = raiseError code r0 r1 s := by
  rcases w with (⟨code, r0, r1⟩ | f) | u
  · constructor
    · intro h
      exact .inr ⟨code, r0, r1, rfl, by simpa using h.symm⟩
    · rintro (h | ⟨c, a, b, h, rfl⟩)
      · cases h
      · cases h; rfl
  · constructor
    · intro h; cases h
    · rintro (h | ⟨c, a, b, h, -⟩) <;> cases h
  · constructor
    · intro h; left; simpa using h
    · rintro (h | ⟨c, a, b, h, -⟩)
      · cases h; rfl
      · cases h

/-- The end of a command faults exactly when its work does. -/
theorem finish_eq_fault (s : State) (w : Work State) (f : Fault) :
    finish s w = .fault f ↔ w = .error (.fault f) := by
  rcases w with (⟨code, r0, r1⟩ | g) | u
  · constructor <;> intro h <;> cases h
  · constructor
    · intro h; cases h; rfl
    · intro h; cases h; rfl
  · constructor <;> intro h <;> cases h

/-- No command is refused. -/
theorem finish_ne_refused (s : State) (w : Work State) (r : Refusal) : finish s w ≠ .refused r := by
  rcases w with (⟨code, r0, r1⟩ | g) | u <;> intro h <;> cases h

/-- A number below 2^32 in a result register. -/
theorem resultWord_of_lt (v : Nat) (h : v < 2 ^ 32) : resultWord v = BitVec.ofNat 32 v := if_pos h

/-! ## Reads -/

/-- A command's read of an entry delivers what was written. -/
theorem readEntry_eq_ok {α : Type} (name : RamName) (m : Ram α) (i : Nat) (v : α) :
    readEntry name m i = .ok v ↔ m.read i = some v := by
  unfold readEntry
  cases m.read i <;> simp

/-- A command's read of an entry stops exactly when nothing has written it, naming the entry. -/
theorem readEntry_eq_error {α : Type} (name : RamName) (m : Ram α) (i : Nat) (h : Halt) :
    readEntry name m i = .error h ↔ m.read i = none ∧ h = .fault (.unwritten name i) := by
  unfold readEntry
  cases m.read i <;> simp [eq_comm]

/-- CW[i] as a command reads it. -/
theorem readCw_eq_ok (s : State) (i v : Nat) :
    readCw s i = .ok v ↔ (s.cw.read i).map BitVec.toNat = some v := by
  unfold readCw readEntry
  cases s.cw.read i <;> simp

/-- A read of CW stops exactly at an unwritten entry. -/
theorem readCw_eq_error (s : State) (i : Nat) (h : Halt) :
    readCw s i = .error h ↔ s.cw.read i = none ∧ h = .fault (.unwritten .cw i) := by
  unfold readCw readEntry
  cases s.cw.read i <;> simp [eq_comm]

/-- The elements read in range: as many as asked for, each the entry it stands for and at most the limit. -/
theorem readRanged_eq_ok (s : State) (limit i n : Nat) (xs : List Nat) :
    readRanged s limit i n = .ok xs ↔
      xs.length = n ∧ ∀ j, j < n → (s.cw.read (i + j)).map BitVec.toNat = xs[j]? ∧ xs.getD j 0 ≤ limit := by
  induction n generalizing i xs with
  | zero =>
    simp only [readRanged, Except.ok.injEq]
    constructor
    · rintro rfl; simp
    · rintro ⟨h, -⟩; exact (List.length_eq_zero_iff.1 h).symm
  | succ n ih =>
    simp only [readRanged, work_bind_eq_ok, readCw_eq_ok, require_eq_ok, decide_eq_true_eq, ih,
      Except.ok.injEq]
    constructor
    · rintro ⟨v, hv, -, hle, rest, ⟨hlen, hrest⟩, rfl⟩
      refine ⟨by simp [hlen], fun j hj => ?_⟩
      cases j with
      | zero => exact ⟨by simpa using hv, by simpa using hle⟩
      | succ j =>
        have := hrest j (by omega)
        rw [show i + (j + 1) = i + 1 + j by omega]
        simpa using this
    · rintro ⟨hlen, h⟩
      cases xs with
      | nil => simp at hlen
      | cons v rest =>
        have h0 := h 0 (by omega)
        refine ⟨v, by simpa using h0.1, (), by simpa using h0.2, rest, ⟨by simpa using hlen, fun j hj => ?_⟩, rfl⟩
        have := h (j + 1) (by omega)
        rw [show i + (j + 1) = i + 1 + j by omega] at this
        simpa using this

/-- How reading elements in range stops: at the first entry that is unwritten or above the limit, every entry before it
being written and in range. -/
theorem readRanged_eq_error (s : State) (limit i n : Nat) (h : Halt) :
    readRanged s limit i n = .error h ↔
      ∃ j, j < n ∧
        (∀ k, k < j → ∃ v, s.cw.read (i + k) = some v ∧ v.toNat ≤ limit) ∧
        ((s.cw.read (i + j) = none ∧ h = .fault (.unwritten .cw (i + j))) ∨
          ∃ v, s.cw.read (i + j) = some v ∧ limit < v.toNat ∧ h = .error .range (i + j) v.toNat) := by
  induction n generalizing i with
  | zero => simp [readRanged]
  | succ n ih =>
    cases hr : s.cw.read i with
    | none =>
      have hc : readCw s i = .error (.fault (.unwritten .cw i)) := (readCw_eq_error s i _).2 ⟨hr, rfl⟩
      simp only [readRanged, hc, work_error_bind, Except.error.injEq]
      constructor
      · rintro rfl
        exact ⟨0, by omega, by simp, .inl ⟨by simpa using hr, by simp⟩⟩
      · rintro ⟨j, hj, hbefore, hat⟩
        cases j with
        | zero =>
          rcases hat with ⟨-, rfl⟩ | ⟨v, hv, -⟩
          · simp
          · simp [hr] at hv
        | succ j =>
          obtain ⟨v, hv, -⟩ := hbefore 0 (by omega)
          simp [hr] at hv
    | some v =>
      have hc : readCw s i = .ok v.toNat := (readCw_eq_ok s i _).2 (by simp [hr])
      by_cases hle : v.toNat ≤ limit
      · have : readRanged s limit i (n + 1) = .error h ↔ readRanged s limit (i + 1) n = .error h := by
          simp [readRanged, hc, hle, work_bind_eq_error]
        rw [this, ih]
        constructor
        · rintro ⟨j, hj, hbefore, hat⟩
          refine ⟨j + 1, by omega, fun k hk => ?_, ?_⟩
          · cases k with
            | zero => exact ⟨v, by simpa using hr, hle⟩
            | succ k => rw [show i + (k + 1) = i + 1 + k by omega]; exact hbefore k (by omega)
          · rw [show i + (j + 1) = i + 1 + j by omega]; exact hat
        · rintro ⟨j, hj, hbefore, hat⟩
          cases j with
          | zero =>
            rcases hat with ⟨hn, -⟩ | ⟨u, hu, hgt, -⟩
            · simp [hr] at hn
            · simp [hr] at hu; subst hu; omega
          | succ j =>
            refine ⟨j, by omega, fun k hk => ?_, ?_⟩
            · rw [show i + 1 + k = i + (k + 1) by omega]; exact hbefore (k + 1) (by omega)
            · rw [show i + 1 + j = i + (j + 1) by omega]; exact hat
      · have : readRanged s limit i (n + 1) = .error (.error .range i v.toNat) := by
          simp [readRanged, hc, hle]
        rw [this, Except.error.injEq]
        constructor
        · rintro rfl
          exact ⟨0, by omega, by simp, .inr ⟨v, by simpa using hr, by omega, by simp⟩⟩
        · rintro ⟨j, hj, hbefore, hat⟩
          cases j with
          | zero =>
            rcases hat with ⟨hn, -⟩ | ⟨u, hu, -, rfl⟩
            · simp [hr] at hn
            · simp [hr] at hu; subst hu; simp
          | succ j =>
            obtain ⟨u, hu, hule⟩ := hbefore 0 (by omega)
            simp [hr] at hu; subst hu; omega

/-- A cell read by DM_FRAME or GRID_EMIT is set. -/
theorem readSetCell_eq_ok (name : RamName) (g : Ram Cell) (r c : Nat) (b : Bool) :
    readSetCell name g r c = .ok b ↔ g.read (cellIndex r c) = some (.set b) := by
  unfold readSetCell readEntry
  rcases g.read (cellIndex r c) with _ | _ | b <;> simp

/-- How a cell's read stops: the cell is unwritten, or it is UNSET. -/
theorem readSetCell_eq_error (name : RamName) (g : Ram Cell) (r c : Nat) (h : Halt) :
    readSetCell name g r c = .error h ↔
      (g.read (cellIndex r c) = none ∧ h = .fault (.unwritten name (cellIndex r c))) ∨
      (g.read (cellIndex r c) = some .unset ∧ h = .error .incomplete 0 ((r <<< 16) ||| c)) := by
  unfold readSetCell readEntry
  rcases g.read (cellIndex r c) with _ | _ | b <;> simp [eq_comm]

/-- A row read from a grid: every cell is set, and the row holds the cells in order. -/
theorem readRow_eq_ok (name : RamName) (g : Ram Cell) (r c n : Nat) (row : List Bool) :
    readRow name g r c n = .ok row ↔
      row.length = n ∧ ∀ j, j < n → g.read (cellIndex r (c + j)) = (row[j]?).map Cell.set := by
  induction n generalizing c row with
  | zero =>
    simp only [readRow, Except.ok.injEq]
    constructor
    · rintro rfl; simp
    · rintro ⟨h, -⟩; exact (List.length_eq_zero_iff.1 h).symm
  | succ n ih =>
    simp only [readRow, work_bind_eq_ok, readSetCell_eq_ok, ih, Except.ok.injEq]
    constructor
    · rintro ⟨b, hb, rest, ⟨hlen, hrest⟩, rfl⟩
      refine ⟨by simp [hlen], fun j hj => ?_⟩
      cases j with
      | zero => simpa using hb
      | succ j =>
        rw [show c + (j + 1) = c + 1 + j by omega]
        simpa using hrest j (by omega)
    · rintro ⟨hlen, h⟩
      cases row with
      | nil => simp at hlen
      | cons b rest =>
        refine ⟨b, by simpa using h 0 (by omega), rest, ⟨by simpa using hlen, fun j hj => ?_⟩, rfl⟩
        have := h (j + 1) (by omega)
        rw [show c + (j + 1) = c + 1 + j by omega] at this
        simpa using this

/-- Rows read from a grid: every cell of the region is set, and the rows hold the cells in order. -/
theorem readRows_eq_ok (name : RamName) (g : Ram Cell) (cols r n : Nat) (rows : List (List Bool)) :
    readRows name g cols r n = .ok rows ↔
      rows.length = n ∧ ∀ j, j < n → ∃ row, rows[j]? = some row ∧ row.length = cols ∧
        ∀ c, c < cols → g.read (cellIndex (r + j) c) = (row[c]?).map Cell.set := by
  induction n generalizing r rows with
  | zero =>
    simp only [readRows, Except.ok.injEq]
    constructor
    · rintro rfl; simp
    · rintro ⟨h, -⟩; exact (List.length_eq_zero_iff.1 h).symm
  | succ n ih =>
    simp only [readRows, work_bind_eq_ok, readRow_eq_ok, ih, Except.ok.injEq, Nat.zero_add]
    constructor
    · rintro ⟨row, ⟨hl, hrow⟩, rest, ⟨hlen, hrest⟩, rfl⟩
      refine ⟨by simp [hlen], fun j hj => ?_⟩
      cases j with
      | zero => exact ⟨row, by simp, hl, by simpa using hrow⟩
      | succ j =>
        rw [show r + (j + 1) = r + 1 + j by omega]
        simpa using hrest j (by omega)
    · rintro ⟨hlen, h⟩
      cases rows with
      | nil => simp at hlen
      | cons row rest =>
        obtain ⟨row', h1, h2, h3⟩ := h 0 (by omega)
        simp only [List.getElem?_cons_zero, Option.some.injEq] at h1
        subst h1
        refine ⟨row, ⟨h2, by simpa using h3⟩, rest, ⟨by simpa using hlen, fun j hj => ?_⟩, rfl⟩
        have := h (j + 1) (by omega)
        rw [show r + (j + 1) = r + 1 + j by omega] at this
        simpa using this

/-! ## Events -/

/-- The end of an emitting command: it completes when the events fit, with the events written from EV_WPTR on, and ends with
EV_OVERFLOW when they do not. -/
theorem emit_eq (s : State) (plan : EventPlan) :
    emit s plan =
      if s.evWptr.toNat + plan.count ≤ Config.evDepth then
        .ok (complete plan.count 0
          { s with
            ev := s.ev.writeBlock s.evWptr.toNat plan.events
            evWptr := BitVec.ofNat 14 (s.evWptr.toNat + plan.count) })
      else .error (.error .evOverflow plan.count s.evWptr.toNat) := by
  unfold emit
  split <;> rename_i h <;> simp [h]

/-- The number of maximal runs is the run count. -/
theorem length_runsFrom (black : Bool) (width : Nat) (ms : List Bool) :
    (runsFrom black width ms).length = runCount (black :: ms) := by
  induction ms generalizing black width with
  | nil => rfl
  | cons b rest ih =>
    unfold runsFrom
    split
    · rename_i h
      subst h
      rw [ih]
      simp [runCount, changes]
    · rename_i h
      rw [List.length_cons, ih]
      have hne : ¬ black = b := fun e => h e.symm
      simp only [runCount, changes, if_neg hne]
      omega

/-- `Bars` emits `Runs` events (R94). -/
theorem length_bars (ms : List Bool) (h : ms ≠ []) : (bars ms).length = runCount ms := by
  cases ms with
  | nil => exact absurd rfl h
  | cons b rest => simp [bars, runs, length_runsFrom]

@[simp] theorem length_patternBits (p n : Nat) : (patternBits p n).length = n := by
  induction n with
  | zero => rfl
  | succ n ih => simp [patternBits, ih]

end Sys2Proof.Machine
end

