-- ==== Sys2Proof/Laws/HostPort.lean ====
section
/-! SUPPORT. The host port, said once: which target an address names, when a transaction is accepted, what a Read and a
Write do; and that the writes of the host and the resets keep the canonical form of the RAMs. -/

namespace Sys2Proof.Machine

/-! ## Reads and writes -/

/-- A Read is accepted and answers OKAY with the target's value, or is refused and answers SLVERR with 0. -/
theorem portRead_eq (s : State) (addr : HostAddr) (size : Nat) :
    portRead s addr size =
      { s with
        reply := match accepted s addr size with
          | some t => .read .okay (readTarget s t)
          | none => .read .slverr 0#32 } := by
  unfold portRead
  cases accepted s addr size <;> rfl

/-- A Write is accepted, has the target's effect and answers OKAY, or is refused and changes nothing but the reply. -/
theorem portWrite_cases (s : State) (addr : HostAddr) (size : Nat) (wdata : Word) :
    (accepted s addr size = none ∧ portWrite s addr size wdata = { s with reply := .write .slverr }) ∨
    ∃ t, accepted s addr size = some t ∧
      portWrite s addr size wdata = { writeTarget s wdata t with reply := .write .okay } := by
  unfold portWrite
  cases accepted s addr size with
  | none => exact .inl ⟨rfl, rfl⟩
  | some t => exact .inr ⟨t, rfl, rfl⟩

/-- A transaction is accepted exactly when it is an aligned word access, its address is mapped, and the target answers in
the engine's mode. -/
theorem accepted_eq_some (s : State) (addr : HostAddr) (size : Nat) (t : Target) :
    accepted s addr size = some t ↔
      size = 4 ∧ addr.toNat % 4 = 0 ∧ target addr.toNat = some t ∧ (busy s = false ∨ alwaysOpen t = true) := by
  unfold accepted
  by_cases h : size = 4 ∧ addr.toNat % 4 = 0
  · rw [if_pos h]
    cases hm : target addr.toNat with
    | none => simp
    | some u =>
      by_cases hu : u = t
      · subst hu
        cases hb : busy s <;> cases ho : alwaysOpen u <;> simp [h, ho]
      · cases hb : busy s <;> cases ho : alwaysOpen u <;> simp [h, hu]
  · rw [if_neg h]
    simp
    intro h1 h2
    exact absurd ⟨h1, h2⟩ h

/-- The entry a target names exists: its index is below the depth of its RAM. -/
def Target.inRange : Target → Prop
  | .cw i => i < Config.cwDepth
  | .bt i => i < Config.bartabDepth
  | .pt i => i / 1024 < Config.pdfClusters ∧ i % 1024 < Config.pdfCwCount
  | .ga i => i < Config.gridDim * Config.gridDim
  | .gb i => i < Config.gridDim * Config.gridDim
  | .ev i => i < Config.evDepth
  | .reg _ => True
  | .regHole => True
  | .ptHole => True

/-- Every target of the address map exists. -/
theorem target_inRange (a : Nat) (t : Target) (h : target a = some t) : t.inRange := by
  unfold target inWindow at h
  repeat' split at h
  all_goals simp only [Option.some.injEq, reduceCtorEq, Bool.and_eq_true, decide_eq_true_eq] at *
  · subst h
    unfold regTarget
    split <;> trivial
  · subst h; simp only [Target.inRange, Config.cwDepth] at *; omega
  · subst h; simp only [Target.inRange, Config.bartabDepth] at *; omega
  · subst h
    unfold ptTarget
    split
    · assumption
    · trivial
  · subst h; simp only [Target.inRange, Config.gridDim] at *; omega
  · subst h; simp only [Target.inRange, Config.gridDim] at *; omega
  · subst h; simp only [Target.inRange, Config.evDepth] at *; omega

/-! ## The canonical form of the RAMs -/

/-- The parts of the canonical form. -/
theorem memory_wf_iff (s : State) :
    Memory.wf s = true ↔
      (s.cw.sorted = true ∧ s.cw.below Config.cwDepth = true) ∧
      (s.ga.sorted = true ∧ s.ga.below (Config.gridDim * Config.gridDim) = true) ∧
      (s.gb.sorted = true ∧ s.gb.below (Config.gridDim * Config.gridDim) = true) ∧
      (s.ev.sorted = true ∧ s.ev.below Config.evDepth = true) ∧
      (s.bt.sorted = true ∧ s.bt.below Config.bartabDepth = true) ∧
      (s.pt.sorted = true ∧ ptInRange s.pt = true) := by
  simp only [Memory.wf, Bool.and_eq_true, and_assoc]

/-- The memory of the reset state has the canonical form. -/
theorem reset_memory_wf : Memory.wf State.reset = true := by decide

/-- A write of one entry below the depth keeps the canonical form of its RAM. -/
theorem Ram.form_write {α : Type} (m : Ram α) (depth i : Nat) (v : α)
    (h : m.sorted = true ∧ m.below depth = true) (hi : i < depth) :
    (m.write i v).sorted = true ∧ (m.write i v).below depth = true :=
  ⟨Ram.sorted_write m i v h.1, Ram.below_writeBlock m i [v] depth h.2 (by simpa using hi)⟩

/-- A write of a block that ends below the depth keeps the canonical form of its RAM. -/
theorem Ram.form_writeBlock {α : Type} (m : Ram α) (depth lo : Nat) (vs : List α)
    (h : m.sorted = true ∧ m.below depth = true) (hi : vs = [] ∨ lo + vs.length ≤ depth) :
    (m.writeBlock lo vs).sorted = true ∧ (m.writeBlock lo vs).below depth = true := by
  refine ⟨Ram.sorted_writeBlock m lo vs h.1, ?_⟩
  rcases hi with rfl | hi
  · exact Ram.all_writeBlock m lo [] (fun i => decide (i < depth)) h.2 (by simp; omega)
  · exact Ram.below_writeBlock m lo vs depth h.2 hi

/-- A write of a rectangle inside the grid keeps the canonical form of a grid. -/
theorem Ram.form_writeRect (m : Ram Cell) (rows cols : Nat) (f : Nat → Nat → Cell)
    (h : m.sorted = true ∧ m.below (Config.gridDim * Config.gridDim) = true)
    (hr : rows ≤ Config.gridDim) (hc : cols ≤ Config.gridDim) :
    (m.writeRect rows cols f).sorted = true ∧
      (m.writeRect rows cols f).below (Config.gridDim * Config.gridDim) = true :=
  ⟨Ram.sorted_writeRect m rows cols f h.1, Ram.below_writeRect m rows cols f h.2 hr hc⟩

/-- Making a range of CW free keeps the canonical form when the range ends below CW_DEPTH. -/
theorem freeCwRange_memory_wf (s : State) (lo hi : Nat) (h : Memory.wf s = true) (hh : hi ≤ Config.cwDepth) :
    Memory.wf (freeCwRange s lo hi) = true := by
  rw [memory_wf_iff] at *
  refine ⟨Ram.form_writeBlock _ _ _ _ h.1 ?_, h.2⟩
  by_cases hl : lo ≤ hi
  · right; simp; omega
  · left; simp; omega

/-- Making a range of EV free keeps the canonical form when the range ends below EV_DEPTH. -/
theorem freeEvRange_memory_wf (s : State) (lo hi : Nat) (h : Memory.wf s = true) (hh : hi ≤ Config.evDepth) :
    Memory.wf (freeEvRange s lo hi) = true := by
  rw [memory_wf_iff] at *
  refine ⟨h.1, h.2.1, h.2.2.1, Ram.form_writeBlock _ _ _ _ h.2.2.2.1 ?_, h.2.2.2.2⟩
  by_cases hl : lo ≤ hi
  · right; simp; omega
  · left; simp; omega

/-- Making the output region of an emitting command free keeps the canonical form. -/
theorem freeEmitRegion_memory_wf (s : State) (w : Work EventPlan) (h : Memory.wf s = true) :
    Memory.wf (freeEmitRegion s w) = true := by
  unfold freeEmitRegion
  split
  · exact freeEvRange_memory_wf _ _ _ h (Nat.min_le_right _ _)
  · exact h
  · exact freeEvRange_memory_wf _ _ _ h (Nat.le_refl _)

/-- Making the output region of any command free keeps the canonical form. -/
theorem freeRegion_memory_wf (i : Instr) (s : State) (h : Memory.wf s = true) :
    Memory.wf (freeRegion i s) = true := by
  cases i with
  | nop => exact h
  | ckMod10 _ => exact h
  | ckMod103 _ => exact h
  | ckMod6 _ => exact h
  | ckFcs _ => exact h
  | rsEcc200 => exact freeCwRange_memory_wf _ _ _ h (Nat.min_le_right _ _)
  | pdfEcc => exact freeCwRange_memory_wf _ _ _ h (Nat.min_le_right _ _)
  | dmPlace =>
    rw [memory_wf_iff] at *
    exact ⟨h.1, Ram.form_writeRect _ _ _ _ h.2.1 (Nat.min_le_right _ _) (Nat.min_le_right _ _), h.2.2⟩
  | dmFrame =>
    rw [memory_wf_iff] at *
    exact ⟨h.1, h.2.1, Ram.form_writeRect _ _ _ _ h.2.2.1 (Nat.min_le_right _ _) (Nat.min_le_right _ _), h.2.2.2⟩
  | gridEmit _ => exact freeEmitRegion_memory_wf _ _ h
  | pdfRows => exact freeEmitRegion_memory_wf _ _ h
  | barWalk _ _ => exact freeEmitRegion_memory_wf _ _ h

/-- What a soft reset does to the RAMs keeps the canonical form. -/
theorem abandon_memory_wf (s : State) (h : Memory.wf s = true) : Memory.wf (abandon s) = true := by
  unfold abandon
  split
  · exact h
  · exact h
  · split
    · exact freeRegion_memory_wf _ _ h
    · exact h

/-- The soft reset keeps the canonical form. -/
theorem softReset_memory_wf (s : State) (h : Memory.wf s = true) : Memory.wf (softReset s) = true :=
  abandon_memory_wf s h

/-- The host's write to a target that exists keeps the canonical form. -/
theorem writeTarget_memory_wf (s : State) (wdata : Word) (t : Target) (ht : t.inRange) (h : Memory.wf s = true) :
    Memory.wf (writeTarget s wdata t) = true := by
  cases t with
  | reg r =>
    cases r
    case ctrl =>
      show Memory.wf (writeCtrl s wdata) = true
      unfold writeCtrl
      split
      · exact softReset_memory_wf s h
      · exact h
    all_goals exact h
  | regHole => exact h
  | ptHole => exact h
  | cw i =>
    rw [memory_wf_iff] at *
    exact ⟨Ram.form_write _ _ _ _ h.1 ht, h.2⟩
  | ga i =>
    rw [memory_wf_iff] at *
    exact ⟨h.1, Ram.form_write _ _ _ _ h.2.1 ht, h.2.2⟩
  | gb i =>
    rw [memory_wf_iff] at *
    exact ⟨h.1, h.2.1, Ram.form_write _ _ _ _ h.2.2.1 ht, h.2.2.2⟩
  | ev i =>
    rw [memory_wf_iff] at *
    exact ⟨h.1, h.2.1, h.2.2.1, Ram.form_write _ _ _ _ h.2.2.2.1 ht, h.2.2.2.2⟩
  | bt i =>
    rw [memory_wf_iff] at *
    exact ⟨h.1, h.2.1, h.2.2.1, h.2.2.2.1, Ram.form_write _ _ _ _ h.2.2.2.2.1 ht, h.2.2.2.2.2⟩
  | pt i =>
    rw [memory_wf_iff] at *
    refine ⟨h.1, h.2.1, h.2.2.1, h.2.2.2.1, h.2.2.2.2.1, Ram.sorted_write _ _ _ h.2.2.2.2.2.1, ?_⟩
    refine Ram.all_writeBlock s.pt i [wdata.setWidth 17]
      (fun j => decide (j / 1024 < Config.pdfClusters) && decide (j % 1024 < Config.pdfCwCount))
      h.2.2.2.2.2.2 (fun j hj hj' => ?_)
    have hji : j = i := by simp at hj'; omega
    subst hji
    simpa [Target.inRange] using ht

/-- Every Write on the host port keeps the canonical form. -/
theorem portWrite_memory_wf (s : State) (addr : HostAddr) (size : Nat) (wdata : Word) (h : Memory.wf s = true) :
    Memory.wf (portWrite s addr size wdata) = true := by
  rcases portWrite_cases s addr size wdata with ⟨-, he⟩ | ⟨t, ht, he⟩
  · rw [he]; exact h
  · rw [he]
    exact writeTarget_memory_wf s wdata t (target_inRange _ t ((accepted_eq_some s addr size t).1 ht).2.2.1) h

end Sys2Proof.Machine
end

