-- ==== Sys2Proof/Laws/PerInstr.lean ====
section
/-! SUPPORT. The family of laws stated once for each command. -/

namespace Sys2Proof.Laws

/-- The opcode of a command (30_encoding.md R71). -/
def opcodeOf : Instr → BitVec 8
  | .nop => 0x00#8
  | .rsEcc200 => 0x01#8
  | .pdfEcc => 0x02#8
  | .ckMod10 _ => 0x10#8
  | .ckMod103 _ => 0x11#8
  | .ckMod6 _ => 0x12#8
  | .ckFcs _ => 0x13#8
  | .dmPlace => 0x20#8
  | .dmFrame => 0x21#8
  | .gridEmit _ => 0x22#8
  | .pdfRows => 0x30#8
  | .barWalk _ _ => 0x31#8

/-- The command word of a command carries its opcode, and its reserved bits are 0 (R70, R71). -/
def EncodedFields.Statement (i : Instr) : Prop :=
  opcodeField (encode i) = opcodeOf i ∧ reservedLow (encode i) = 0#3 ∧ reservedHigh (encode i) = 0#16

theorem EncodedFields.nop : EncodedFields.Statement .nop := by
  unfold EncodedFields.Statement; decide

theorem EncodedFields.rsEcc200 : EncodedFields.Statement .rsEcc200 := by
  unfold EncodedFields.Statement; decide

theorem EncodedFields.pdfEcc : EncodedFields.Statement .pdfEcc := by
  unfold EncodedFields.Statement; decide

theorem EncodedFields.ckMod10 (verify : Bool) : EncodedFields.Statement (.ckMod10 verify) := by
  unfold EncodedFields.Statement; revert verify; decide

theorem EncodedFields.ckMod103 (verify : Bool) : EncodedFields.Statement (.ckMod103 verify) := by
  unfold EncodedFields.Statement; revert verify; decide

theorem EncodedFields.ckMod6 (verify : Bool) : EncodedFields.Statement (.ckMod6 verify) := by
  unfold EncodedFields.Statement; revert verify; decide

theorem EncodedFields.ckFcs (verify : Bool) : EncodedFields.Statement (.ckFcs verify) := by
  unfold EncodedFields.Statement; revert verify; decide

theorem EncodedFields.dmPlace : EncodedFields.Statement .dmPlace := by
  unfold EncodedFields.Statement; decide

theorem EncodedFields.dmFrame : EncodedFields.Statement .dmFrame := by
  unfold EncodedFields.Statement; decide

theorem EncodedFields.gridEmit (selA : Bool) : EncodedFields.Statement (.gridEmit selA) := by
  unfold EncodedFields.Statement; revert selA; decide

theorem EncodedFields.pdfRows : EncodedFields.Statement .pdfRows := by
  unfold EncodedFields.Statement; decide

theorem EncodedFields.barWalk (black1 : Bool) (kind : BitVec 4) :
    EncodedFields.Statement (.barWalk black1 kind) := by
  unfold EncodedFields.Statement; revert black1 kind; decide

end Sys2Proof.Laws
end

