-- ==== Sys2Proof/Machine/Timing.lean ====
section
/-! DEFINITION. The clock cycles of the engine's moves, by the OPEN parameters LATENCY and INIT_TIME (00_scope.md R7,
70_reset_and_hazards.md R193). No rule depends on the numbers (R97), and no step reads them: a move of the engine
stands for all the cycles from a command's issue, or the initialisation's start, to its end (R85). -/

namespace Sys2Proof.Machine

/-- The values of the registers a command reads, in the order of R77's table. -/
def operandValues (i : Instr) (s : State) : List Nat :=
  match i with
  | .nop => []
  | .rsEcc200 => [lenN s, arg1N s, arg2N s]
  | .pdfEcc => [lenN s, arg1N s]
  | .ckMod10 _ => [lenN s]
  | .ckMod103 _ => [lenN s, flagN s.c128w0]
  | .ckMod6 _ => [lenN s, flagN s.rmlit]
  | .ckFcs _ => [lenN s, s.fcsInit.toNat]
  | .dmPlace => [lenN s, arg1N s, arg2N s]
  | .dmFrame => [arg1N s, arg2N s, arg3Low s, arg3High s]
  | .gridEmit _ => [arg1N s, arg2N s, s.evWptr.toNat]
  | .pdfRows => [lenN s, arg1N s, arg2N s, arg3N s, s.pdfStart.toNat, s.pdfStop.toNat, s.evWptr.toNat]
  | .barWalk _ _ => [lenN s, s.evWptr.toNat]

/-- The elements CW[0, N) a command takes; NOP, DM_FRAME and GRID_EMIT take none (R77). -/
def operandElements (i : Instr) (s : State) : List (Option (BitVec 16)) :=
  match i with
  | .nop => []
  | .dmFrame => []
  | .gridEmit _ => []
  | .rsEcc200 => elements
  | .pdfEcc => elements
  | .ckMod10 _ => elements
  | .ckMod103 _ => elements
  | .ckMod6 _ => elements
  | .ckFcs _ => elements
  | .dmPlace => elements
  | .pdfRows => elements
  | .barWalk _ _ => elements
where
  /-- CW[0, N), N clipped to CW_DEPTH. -/
  elements : List (Option (BitVec 16)) := (List.range (min (lenN s) Config.cwDepth)).map s.cw.read

/-- The clock cycles from the issue of word `w` to its end: LATENCY of the command and its operands. A word that is not
well-formed reads no operand (R72, R97, R193). -/
def commandCycles (w : Word) (s : State) : Nat :=
  match decode w with
  | .ok i => Config.latency w (operandValues i s) (operandElements i s)
  | .error _ => Config.latency w [] []

/-- The clock cycles the engine's move stands for: INIT_TIME for the initialisation (R183), LATENCY for a command (R97); an
idle engine does nothing (R83). -/
def engineCycles (s : State) : Nat :=
  match s.engine with
  | .init => Config.initTime
  | .idle => 0
  | .busy w => commandCycles w s

end Sys2Proof.Machine
end

