-- ==== Sys2Proof/Laws/Timing.lean ====
section
/-! SUPPORT. What every choice of the OPEN parameters LATENCY and INIT_TIME has in common: at least one clock cycle. -/

namespace Sys2Proof.Machine

/-- Every command word, well-formed or not, takes at least one clock cycle (R97, R193). -/
theorem commandCycles_pos (w : Word) (s : State) : 1 ≤ commandCycles w s := by
  unfold commandCycles Config.latency
  split <;> omega

/-- The initialisation and every command take at least one clock cycle (R183, R193). -/
theorem engineCycles_pos (s : State) (h : s.engine ≠ .idle) : 1 ≤ engineCycles s := by
  unfold engineCycles Config.initTime
  split
  · omega
  · exact absurd ‹_› h
  · exact commandCycles_pos _ s

/-- An idle engine takes no time of its own (R83). -/
theorem engineCycles_idle (s : State) (h : s.engine = .idle) : engineCycles s = 0 := by
  simp only [engineCycles, h]

end Sys2Proof.Machine
end

