-- ==== Sys2Proof/Laws/Widths.lean ====
section
/-! SUPPORT. The widths of R7 as numbers: the bounds they put on registers and addresses, and the FCS step and its input
shifts at the FCS width of 11 bits. -/

namespace Sys2Proof.Machine

/-- A 32-bit word is below 2^32 (R7, `DATA_WIDTH`). -/
theorem word_toNat_lt (w : Word) : w.toNat < 4294967296 := w.isLt

/-- A number below 2^32 in a word (R7, `DATA_WIDTH`). -/
theorem word_ofNat_toNat (n : Nat) (h : n < 4294967296) : (BitVec.ofNat Config.dataWidth n).toNat = n :=
  Nat.mod_eq_of_lt h

/-- A host address lies in the 1 MiB window (R7, `ADDR_WIDTH`). -/
theorem hostAddr_toNat_lt (a : HostAddr) : a.toNat < 1048576 := a.isLt

/-- FCS_INIT is below 2^11 (R7, R31). -/
theorem fcsInit_toNat_lt (s : State) : s.fcsInit.toNat < 2048 := s.fcsInit.isLt

/-- All ones at the FCS width (R7, R105). -/
theorem fcsMask_eq : fcsMask = 0x7FF := rfl

/-- One FCS step at the FCS width, as R105 writes it. -/
theorem fcsStep_eq (f d : Nat) :
    fcsStep f d = if (f ^^^ d) &&& 0x400 ≠ 0 then ((f <<< 1) ^^^ 0x0F35) &&& 0x7FF else (f <<< 1) &&& 0x7FF := rfl

/-- Six bits of a byte enter shifted left by 5 (R106). -/
theorem fcsBits_six (f b : Nat) : fcsBits 6 f b = fcsSteps 6 f (b <<< 5) := rfl

/-- Eight bits of a byte enter shifted left by 3 (R106). -/
theorem fcsBits_eight (f b : Nat) : fcsBits 8 f b = fcsSteps 8 f (b <<< 3) := rfl

/-- An FCS step leaves a value of the FCS width (R105). -/
theorem fcsStep_lt (f d : Nat) : fcsStep f d < 2048 := by
  rw [fcsStep_eq]
  split <;> exact Nat.lt_of_le_of_lt Nat.and_le_right (by decide)

end Sys2Proof.Machine
end

