-- ==== Sys2Proof/Tests/Slice0.lean ====
section
/-! SUPPORT. Tests of one step each, with the values of the spec's vectors (95_test_vectors.md), and for every statement
with hypotheses a concrete state that meets them. -/

namespace Sys2Proof.Tests

open Sys2Proof Sys2Proof.Machine Sys2Proof.Claims

/-! ## Helpers -/

/-- The machine after its initialisation (R184). -/
def idle : State := finishInit State.reset

/-- The idle machine with these elements in CW and their number in LEN. -/
def loaded (xs : List Nat) : State :=
  { idle with cw := Ram.block 0 (xs.map (BitVec.ofNat 16)), len := BitVec.ofNat 13 xs.length }

/-- The state with these values in ARG1, ARG2 and ARG3. -/
def withArgs (a b c : Nat) (s : State) : State := { s with arg1 := word a, arg2 := word b, arg3 := word c }

/-- Something of the next state of a step. -/
def after {α : Type} (o : Host.Outcome State Fault Refusal) (f : State → α) : Option α :=
  match o with
  | .next t => some (f t)
  | .fault _ => none
  | .refused _ => none

/-- The step that runs a command word. -/
def ran {α : Type} (w : Nat) (s : State) (f : State → α) : Option α := after (step (s.withFetchWord 32 w)) f

/-- STATUS, RESULT0 and RESULT1. -/
def ends (t : State) : Word × Word × Word := (statusWord t, t.result0, t.result1)

/-- `n` entries of a RAM from `lo` on. -/
def entries {α : Type} (m : Ram α) (lo n : Nat) : List (Option α) := (List.range n).map (fun i => m.read (lo + i))

/-- The grid rows with these numbers, the bit `cols − 1` in column 0, 1 for DARK. -/
def gridOf (cols : Nat) (rows : List Nat) : Ram Cell :=
  Ram.writeRect [] rows.length cols (fun r c => .set ((rows.getD r 0).testBit (cols - 1 - c)))

/-- The rows of a grid that is all set in the region read, as `gridOf` numbers them. -/
def rowsOf (g : Ram Cell) (rows cols : Nat) : List Nat :=
  (List.range rows).map fun r =>
    (List.range cols).foldl
      (fun n c => 2 * n + (match g.read (cellIndex r c) with | some (.set true) => 1 | _ => 0)) 0

/-! ## The parameters (R7) -/

/-- The rows of R121 for the levels 0 to 2. -/
theorem test_pdfEcCoeff :
    Config.pdfEcCoeff 0 = [27, 917] ∧ Config.pdfEcCoeff 1 = [522, 568, 723, 809] ∧
    Config.pdfEcCoeff 2 = [237, 308, 436, 284, 646, 653, 428, 379] := by decide

/-- The first, the third and the last row of R104's table. -/
theorem test_rmTable :
    (List.range 6).map Config.rmTable = [0x33, 0x35, 0x36, 0x39, 0x3A, 0x3C] ∧
    (List.range 6).map (fun x => Config.rmTable (12 + x)) = [0x63, 0x65, 0x66, 0x69, 0x6A, 0x6C] ∧
    (List.range 6).map (fun x => Config.rmTable (30 + x)) = [0xC3, 0xC5, 0xC6, 0xC9, 0xCA, 0xCC] := by decide

/-- With GF_ALPHA = 2 a turn of the table build is the line of R113's loop. -/
theorem test_gfNextPower : gfNextPower 64 = 128 ∧ gfNextPower 128 = 45 ∧ gfNextPower 114 = 228 := by decide

/-! ## WellFormed and Decode -/

theorem test_wellFormed_refuses_kind_8 : (Instr.barWalk false 8#4).wellFormed = false := by decide
theorem test_wellFormed_refuses_kind_15 : (Instr.barWalk true 15#4).wellFormed = false := by decide
theorem test_wellFormed_accepts_kind_7 : (Instr.barWalk true 7#4).wellFormed = true := by decide

/-! The words of R71, R73 and R80, written from the fields of R70. -/

theorem test_decode_nop : decode 0x00000000#32 = .ok .nop := by decide
theorem test_decode_rs_ecc200 : decode 0x00000001#32 = .ok .rsEcc200 := by decide
theorem test_decode_pdf_ecc : decode 0x00000002#32 = .ok .pdfEcc := by decide
theorem test_decode_ck_mod10 : decode 0x00000010#32 = .ok (.ckMod10 false) := by decide
theorem test_decode_ck_mod10_v : decode 0x00000110#32 = .ok (.ckMod10 true) := by decide
theorem test_decode_ck_mod103_v : decode 0x00000111#32 = .ok (.ckMod103 true) := by decide
theorem test_decode_ck_mod6_v : decode 0x00000112#32 = .ok (.ckMod6 true) := by decide
theorem test_decode_ck_fcs_v : decode 0x00000113#32 = .ok (.ckFcs true) := by decide
theorem test_decode_dm_place : decode 0x00000020#32 = .ok .dmPlace := by decide
theorem test_decode_dm_frame : decode 0x00000021#32 = .ok .dmFrame := by decide
theorem test_decode_grid_emit : decode 0x00000022#32 = .ok (.gridEmit false) := by decide
theorem test_decode_grid_emit_a : decode 0x00000122#32 = .ok (.gridEmit true) := by decide
theorem test_decode_pdf_rows : decode 0x00000030#32 = .ok .pdfRows := by decide
theorem test_decode_bar_walk : decode 0x00002031#32 = .ok (.barWalk false 2#4) := by decide
theorem test_decode_bar_walk_b : decode 0x00007131#32 = .ok (.barWalk true 7#4) := by decide
theorem test_encode_bar_walk : encode (.barWalk true 3#4) = 0x00003131#32 := by decide
theorem test_decodeTableWord : decodeTableWord 32 0x5031 = some (.barWalk false 5#4) := by decide
theorem test_decodeTableWord_rejects : decodeTableWord 32 0x8031 = none := by decide

/-- V-D2 to V-D8: words that are not well-formed end with BAD_COMMAND. -/
theorem test_bad_command :
    [0x00000003, 0x00000101, 0x00001010, 0x00008031, 0x00000220, 0x00010000, 0x000000FF].map
        (fun w => ran w idle ends) =
      [some (0x00030109#32, 0x00000003#32, 0#32), some (0x00010109#32, 0x00000101#32, 0#32),
       some (0x00100109#32, 0x00001010#32, 0#32), some (0x00310109#32, 0x00008031#32, 0#32),
       some (0x00200109#32, 0x00000220#32, 0#32), some (0x00000109#32, 0x00010000#32, 0#32),
       some (0x00FF0109#32, 0x000000FF#32, 0#32)] := by decide +kernel

/-! ## One step of each command -/

/-- V-D1. -/
theorem test_nop : ran 0x00000000 idle ends = some (0x00000005#32, 0#32, 0#32) := by decide +kernel

/-- V-RS1. -/
theorem test_rs_ecc200 :
    ran 0x00000001 (withArgs 5 1 0 (loaded [142, 164, 186])) (fun t => (ends t, entries t.cw 0 9)) =
      some ((0x00010005#32, 8#32, 5#32),
        [some 142#16, some 164#16, some 186#16, some 114#16, some 25#16, some 5#16, some 88#16, some 102#16, none]) := by
  decide +kernel

/-- V-RS9: blocks without data. -/
theorem test_rs_ecc200_empty_blocks :
    ran 0x00000001 (withArgs 6 3 0 (loaded [7])) (fun t => (ends t, entries t.cw 1 6)) =
      some ((0x00010005#32, 7#32, 2#32), [some 18#16, some 0#16, some 0#16, some 56#16, some 0#16, some 0#16]) := by
  decide +kernel

/-- V-PE1. -/
theorem test_pdf_ecc :
    ran 0x00000002 (withArgs 1 0 0 (loaded [5, 453, 178, 121, 239])) (fun t => (ends t, entries t.cw 5 5)) =
      some ((0x00020005#32, 9#32, 4#32), [some 452#16, some 327#16, some 657#16, some 619#16, none]) := by
  decide +kernel

/-- V-PE12. -/
theorem test_pdf_ecc_range :
    ran 0x00000002 (withArgs 0 0 0 (loaded [5, 929])) ends = some (0x00020309#32, 1#32, 929#32) := by decide +kernel

/-- V-CK1. -/
theorem test_ck_mod10 :
    ran 0x00000010 (loaded [0, 3, 6, 0, 0, 0, 2, 9, 1, 4, 5]) ends = some (0x00100005#32, 2#32, 58#32) := by
  decide +kernel

/-- E3: the supplied digit differs. -/
theorem test_ck_mod10_mismatch :
    ran 0x00000110 (loaded [0, 3, 6, 0, 0, 0, 2, 9, 1, 4, 5, 9]) ends = some (0x00100C09#32, 2#32, 9#32) := by
  decide +kernel

/-- V-CK10. -/
theorem test_ck_mod103 :
    ran 0x00000011 (loaded [104, 48, 42, 42, 17, 18, 19, 35]) ends = some (0x00110005#32, 55#32, 0#32) := by
  decide +kernel

/-- V-CK13: CFG.C128W0 = 0. -/
theorem test_ck_mod103_w0 :
    ran 0x00000011 { loaded [105, 12, 34, 56] with c128w0 := false } ends = some (0x00110005#32, 42#32, 0#32) := by
  decide +kernel

/-- V-CK17. -/
theorem test_ck_mod6 :
    ran 0x00000012 (loaded [28, 23, 3, 4, 27, 13, 1, 10]) ends = some (0x00120005#32, 20#32, 0x00160021#32) := by
  decide +kernel

/-- E6: CFG.RMLIT = 1, the verify form. -/
theorem test_ck_mod6_literal :
    ran 0x00000112 { loaded [28, 23, 3, 4, 27, 13, 1, 10, 27] with rmlit := true } ends =
      some (0x00120005#32, 27#32, 0x00160021#32) := by decide +kernel

/-- V-CK23. -/
theorem test_ck_fcs :
    ran 0x00000013 (loaded [0x01, 0x69, 0x07, 0xB2, 0xA2, 0x4A, 0xBC, 0x16, 0xA2, 0xE5, 0xC0, 0x04, 0xB1]) ends =
      some (0x00130005#32, 0x751#32, 0#32) := by decide +kernel

/-- V-CK29. -/
theorem test_ck_fcs_range :
    ran 0x00000113
        (loaded [0x01, 0x69, 0x07, 0xB2, 0xA2, 0x4A, 0xBC, 0x16, 0xA2, 0xE5, 0xC0, 0x04, 0xB1, 0x800]) ends =
      some (0x00130309#32, 13#32, 0x800#32) := by decide +kernel

/-- V-DP1. -/
theorem test_dm_place :
    ran 0x00000020 (withArgs 8 8 0 (loaded [142, 164, 186, 114, 25, 5, 88, 102]))
        (fun t => (ends t, rowsOf t.ga 8 8)) =
      some ((0x00200005#32, 8#32, 0#32), [0x96, 0x82, 0x8E, 0x84, 0x07, 0xD8, 0xEC, 0x3A]) := by decide +kernel

/-- V-DP11. -/
theorem test_dm_place_overlap :
    ran 0x00000020 (withArgs 7 7 0 (loaded (List.replicate 30 255))) ends =
      some (0x00200709#32, 3#32, 0x00040005#32) := by decide +kernel

/-- V-DF1. -/
theorem test_dm_frame :
    ran 0x00000021
        (withArgs 8 8 0x00010001
          { idle with ga := gridOf 8 [0x96, 0x82, 0x8E, 0x84, 0x07, 0xD8, 0xEC, 0x3A] })
        (fun t => (ends t, rowsOf t.gb 10 10)) =
      some ((0x00210005#32, 10#32, 10#32),
        [0x2AA, 0x32D, 0x304, 0x31D, 0x308, 0x20F, 0x3B0, 0x3D9, 0x274, 0x3FF]) := by decide +kernel

/-- V-DF7. -/
theorem test_dm_frame_incomplete :
    ran 0x00000021
        (withArgs 8 8 0x00010001
          { idle with
            ga := (gridOf 8 [0x96, 0x82, 0x8E, 0x84, 0x07, 0xD8, 0xEC, 0x3A]).write (cellIndex 3 5) .unset })
        ends = some (0x00210809#32, 0#32, 0x00030005#32) := by decide +kernel

/-- V-GE7. -/
theorem test_grid_emit :
    ran 0x00000022 (withArgs 1 3 0 { idle with gb := gridOf 3 [7] }) (fun t => (ends t, t.evWptr, entries t.ev 0 6)) =
      some ((0x00220005#32, 5#32, 0#32), 5#14,
        [some 0x30000000#32, some 0x12000000#32, some 0x00001003#32, some 0x20000000#32, some 0x40000000#32, none]) := by
  decide +kernel

/-- V-GE2 with EV_WPTR = 8128, where its 65 events no longer fit (R95). -/
theorem test_grid_emit_a_overflow :
    ran 0x00000122
        (withArgs 8 8 0
          { idle with ga := gridOf 8 [0x96, 0x82, 0x8E, 0x84, 0x07, 0xD8, 0xEC, 0x3A], evWptr := 8128#14 })
        ends = some (0x00220A09#32, 65#32, 8128#32) := by decide +kernel

/-- The toy pattern table of program P3. -/
def toyPt : Ram (BitVec 17) :=
  [(0, 0x1F540#17), (1, 0x1F540#17), (1024, 0x1F540#17), (1026, 0x1F540#17), (1941, 0x1F540#17), (2048, 0x1F540#17),
   (2050, 0x1F540#17), (2075, 0x1F540#17)]

/-- V-PR1, and the first events R152 gives. -/
theorem test_pdf_rows :
    ran 0x00000030 (withArgs 3 1 0 { loaded [1, 917, 27] with pt := toyPt })
        (fun t => (ends t, t.evWptr, entries t.ev 0 12)) =
      some ((0x00300005#32, 159#32, 0#32), 159#14,
        [some 0x30000000#32, some 0x10000000#32, some 0x00001008#32, some 0x00000001#32, some 0x00001001#32,
         some 0x00000001#32, some 0x00001001#32, some 0x00000001#32, some 0x00001001#32, some 0x00000003#32,
         some 0x20000000#32, some 0x12000000#32]) := by decide +kernel

/-- V-PR8. -/
theorem test_pdf_rows_table :
    ran 0x00000030 (withArgs 3 1 0 { loaded [1, 917, 27] with pt := toyPt.write 1941 0x0F540#17 }) ends =
      some (0x00300B09#32, 0x00010395#32, 0x0000F540#32) := by decide +kernel

/-- V-BW1. -/
theorem test_bar_walk_guard :
    ran 0x00003131 { loaded [10] with bt := [(10, 0x1113#32)] } (fun t => (ends t, entries t.ev 0 5)) =
      some ((0x00310005#32, 5#32, 0#32),
        [some 0x1300000A#32, some 0x00001001#32, some 0x00000001#32, some 0x00001001#32, some 0x20000000#32]) := by
  decide +kernel

/-- V-BW7. -/
theorem test_bar_walk_table :
    ran 0x00002031 { loaded [12] with bt := [(12, 0x00000032#32)] } ends =
      some (0x00310B09#32, 12#32, 0x00000032#32) := by decide +kernel

/-! ## The host port, the reset and the model's fault -/

/-- The reply to a Read of the word at address `a`. -/
def readReply (s : State) (a : Nat) : Reply := (portRead s (BitVec.ofNat 20 a) 4).reply

/-- V-M1 to V-M3, V-M5, V-M7: constants, a hole and an unmapped address. -/
theorem test_host_reads :
    [0x000, 0x004, 0x040, 0x044, 0x048, 0x400].map (readReply idle) =
      [.read .okay 0x42433445#32, .read .okay 1#32, .read .okay 0x20001000#32, .read .okay 0x01000100#32,
       .read .okay 0#32, .read .slverr 0#32] := by decide +kernel

/-- V-M8 to V-M15: what is read back after a write of the word. -/
theorem test_host_read_back :
    [(0x014, 0xFFFFFFFF), (0x02C, 0xFFFFFFFF), (0x04014, 0x00012345), (0x11E54, 0xFFFFFFFF), (0x13000, 5), (0x10E84, 5),
       (0x4080C, 1), (0x80000, 0xFFFFFFFF)].map
        (fun p => readReply (portWrite idle (BitVec.ofNat 20 p.1) 4 (BitVec.ofNat 32 p.2)) p.1) =
      [.read .okay 0x1FFF#32, .read .okay 0x3FFF#32, .read .okay 0x2345#32, .read .okay 0x1FFFF#32, .read .okay 0#32,
       .read .okay 0#32, .read .okay 0#32, .read .okay 3#32] := by decide +kernel

/-- V-M6: a misaligned address. -/
theorem test_host_misaligned : (portRead idle 0x00002#20 4).reply = .read .slverr 0#32 := by decide

/-- V-X1, V-X2: STATUS before and after the initialisation. -/
theorem test_initialisation :
    (readReply State.reset 0x00C, after (step State.reset) (fun t => readReply t 0x00C)) =
      (.read .okay 2#32, some (.read .okay 1#32)) := by decide +kernel

/-- V-X7: a soft reset keeps CW and gives the registers their reset values. -/
theorem test_soft_reset :
    (fun t : State => (statusWord t, readReg t .cfg, t.len, t.evWptr, t.cw))
        (portWrite { loaded [7] with c128w0 := false, rmlit := true, evWptr := 9#14 } 0x00008#20 4 3#32) =
      (2#32, 1#32, 0#13, 0#14, [(0, 7#16)]) := by decide

/-- A command that reads an entry nothing has written faults, naming the entry (R49). -/
theorem test_unwritten_entry_faults :
    exec (.ckMod10 false) { idle with len := 1#13 } = .fault (.unwritten .cw 0) := by rfl


/-! ## Witnesses: for each statement with hypotheses, values that meet them -/

/-- The loaded machine holds its elements. -/
theorem cwHolds_loaded (xs : List Nat) (a b c : Nat) (hl : xs.length < 8192) (hx : ∀ x ∈ xs, x < 65536) :
    CwHolds (withArgs a b c (loaded xs)) xs := by
  constructor
  · show (BitVec.ofNat 13 xs.length).toNat = xs.length
    rw [BitVec.toNat_ofNat]
    exact Nat.mod_eq_of_lt hl
  · intro i hi
    show (Ram.read (Ram.block 0 (xs.map (BitVec.ofNat 16))) i).map BitVec.toNat = xs[i]?
    have hx' := hx xs[i] (List.getElem_mem hi)
    rw [Ram.read_block, if_pos (Nat.zero_le i), Nat.sub_zero, List.getElem?_map, List.getElem?_eq_getElem hi]
    simp only [Option.map_some, BitVec.toNat_ofNat, Option.some.injEq]
    omega

/-- A value that a work delivers, with a property of it. -/
theorem exists_of_ok {α : Type} (w : Work α) (P : α → Bool)
    (h : (match w with | .ok p => P p | .error _ => false) = true) : ∃ p, w = .ok p ∧ P p = true := by
  cases w with
  | ok p => exact ⟨p, rfl, h⟩
  | error e => cases h

/-- A work that stops in a given way. -/
theorem eq_error_of {α : Type} (w : Work α) (e : Halt)
    (h : (match w with | .ok _ => false | .error f => decide (f = e)) = true) : w = .error e := by
  cases w with
  | ok p => cases h
  | error f => exact congrArg _ (of_decide_eq_true h)

/-- A grid holds what was written to its first rows and columns. -/
theorem gridHolds_writeRect (rows cols : Nat) (m : Nat → Nat → Bool) (hc : cols ≤ 256) :
    GridHolds (Ram.writeRect [] rows cols (fun r c => .set (m r c))) rows cols m := by
  intro r c hr hcc
  have := Ram.read_writeRect ([] : Ram Cell) rows cols (fun r c => .set (m r c)) r c hc
    (by simp only [Config.gridDim]; omega)
  rw [if_pos ⟨hr, hcc⟩] at this
  rw [← this]
  congr 1
  simp only [cellIndex, Config.gridDim]
  omega

/-- The first element above the limit, from checks that can be decided. -/
theorem firstAbove_of (s : State) (limit i v : Nat)
    (h : ∀ j, j < i → (s.cw.read j).any (fun u => decide (u.toNat ≤ limit)) = true)
    (hv : (s.cw.read i).map BitVec.toNat = some v) (hl : limit < v) : FirstAbove s limit i v := by
  refine ⟨fun j hj => ?_, hv, hl⟩
  have := h j hj
  cases hr : s.cw.read j with
  | none => rw [hr] at this; cases this
  | some u => rw [hr] at this; exact ⟨u, rfl, by simpa using this⟩

/-- What is read from a RAM is listed in it. -/
theorem mem_of_read {α : Type} (m : Ram α) (i : Nat) (v : α) (h : m.read i = some v) : (i, v) ∈ m := by
  induction m with
  | nil => cases h
  | cons p m ih =>
    obtain ⟨j, u⟩ := p
    simp only [Ram.read] at h
    split at h
    · rename_i hj
      cases h
      subst hj
      exact List.mem_cons_self
    · exact List.mem_cons_of_mem _ (ih h)

theorem witness_DecodeIffCommandWord : (Instr.barWalk true 7#4).wellFormed = true ∧ encode (.barWalk true 7#4) = 0x7131#32 := by
  decide

theorem witness_IllFormedWord_busy (w : Word) : (issue w idle).engine = .busy w := rfl

theorem witness_IllFormedWord_wellFormed : WellFormedWord 0x00007131#32 ∧ WellFormedWord 0x00000122#32 := by
  unfold WellFormedWord
  exact ⟨by decide, by decide⟩

/-- One word for each condition of R75. -/
theorem witness_IllFormedWord_illFormed :
    ¬ WellFormedWord 0x00000003#32 ∧ ¬ WellFormedWord 0x00000101#32 ∧ ¬ WellFormedWord 0x00001010#32 ∧
    ¬ WellFormedWord 0x00008031#32 ∧ ¬ WellFormedWord 0x00000800#32 ∧ ¬ WellFormedWord 0x00010000#32 := by
  unfold WellFormedWord
  exact ⟨by decide, by decide, by decide, by decide, by decide, by decide⟩

theorem witness_StepRunsDecodedCommand :
    (issue 0#32 idle).engine = .busy 0#32 ∧ decode 0#32 = .ok .nop ∧ (issue 0#32 idle).turns = [] ∧
    { issue 0#32 idle with turns := [.engine] }.engine = .busy 0#32 ∧
    { issue 0#32 idle with turns := [.engine] }.turns = .engine :: [] ∧
    idle.engine = .idle ∧ idle.turns = [] ∧ { idle with turns := [.engine] }.engine = .idle ∧
    { idle with turns := [.engine] }.turns = .engine :: [] := by decide

theorem witness_CmdWriteIssuesOnlyWhenIdle :
    { idle with turns := [.write 0x00010#20 4 0x3131#32] }.turns = .write 0x00010#20 4 0x3131#32 :: [] ∧
    { idle with turns := [.write 0x00010#20 4 0x3131#32] }.engine = .idle ∧
    { State.reset with turns := [.write 0x00010#20 4 0#32] }.turns = .write 0x00010#20 4 0#32 :: [] ∧
    { State.reset with turns := [.write 0x00010#20 4 0#32] }.engine ≠ .idle := by decide

theorem witness_SlverrExactlyWhenRefused :
    (∀ a ∈ [0x00400, 0x03FFC, 0x08400, 0x0FFFC, 0x14000, 0x3FFFC, 0xC8000, 0xFFFFC, 0x00001, 0x00002, 0x04003],
      Refused idle (BitVec.ofNat 20 a) 4) ∧
    (∀ size ∈ [1, 2, 3, 8], Refused idle 0x00000#20 size) ∧
    (∀ a ∈ [0x00010, 0x0003C, 0x04000, 0xC7FFC], Refused State.reset (BitVec.ofNat 20 a) 4) ∧
    (∀ a ∈ [0x00000, 0x003FC, 0x04000, 0x07FFC, 0x08000, 0x083FC, 0x10000, 0x13FFC, 0x40000, 0xBFFFC, 0xC0000, 0xC7FFC],
      ¬ Refused idle (BitVec.ofNat 20 a) 4) ∧
    (∀ a ∈ [0x00000, 0x0000C, 0x00040, 0x003FC], ¬ Refused State.reset (BitVec.ofNat 20 a) 4) := by
  unfold Refused Mapped OpenWhileBusy
  exact ⟨by decide, by decide, by decide, by decide, by decide⟩

theorem witness_CodewordBufferWindow :
    ∀ i ∈ [0, 4095], { idle with cw := [(i, 7#16)] }.engine = .idle ∧ i < 4096 ∧
      { idle with cw := [(i, 7#16)] }.cw.read i = some 7#16 := by decide

theorem witness_BarTableAndEventWindows :
    ∀ p ∈ [(0, 0), (255, 8191)],
      { idle with bt := [(p.1, 7#32)], ev := [(p.2, 7#32)] }.engine = .idle ∧ p.1 < 256 ∧ p.2 < 8192 ∧
      { idle with bt := [(p.1, 7#32)], ev := [(p.2, 7#32)] }.bt.read p.1 = some 7#32 ∧
      { idle with bt := [(p.1, 7#32)], ev := [(p.2, 7#32)] }.ev.read p.2 = some 7#32 := by decide

theorem witness_PatternTableWindow :
    (∀ p ∈ [(0, 0), (2, 928)], p.1 < 4 ∧ p.2 < 1024 ∧ p.1 ≤ 2 ∧ p.2 < 929 ∧
      { idle with pt := [(p.1 * 1024 + p.2, 7#17)] }.engine = .idle ∧
      { idle with pt := [(p.1 * 1024 + p.2, 7#17)] }.pt.read (p.1 * 1024 + p.2) = some 7#17) ∧
    (∀ p ∈ [(0, 929), (2, 1023), (3, 0)], p.1 < 4 ∧ p.2 < 1024 ∧ ¬ (p.1 ≤ 2 ∧ p.2 < 929)) := by decide

theorem witness_GridWindows :
    ∀ i ∈ [0, 255],
      { idle with ga := [(256 * i + i, .set true)], gb := [(256 * i + i, .unset)] }.engine = .idle ∧ i < 256 ∧
      { idle with ga := [(256 * i + i, .set true)], gb := [(256 * i + i, .unset)] }.ga.read (256 * i + i) =
        some (.set true) ∧
      { idle with ga := [(256 * i + i, .set true)], gb := [(256 * i + i, .unset)] }.gb.read (256 * i + i) =
        some .unset := by decide

theorem witness_StatusWriteOneToClear : idle.engine = .idle := by decide

theorem witness_RegisterReadsAfterWrite :
    idle.engine = .idle ∧ (registerWrites idle 0xFFFFFFFF#32).map (fun p => p.1) =
      [0x014, 0x018, 0x01C, 0x020, 0x02C, 0x030, 0x034, 0x038, 0x03C] ∧ (∀ a ∈ [0x048, 0x3FC], 0x048 ≤ a ∧ a < 0x400 ∧ a % 4 = 0) ∧
      (0x2#32).getLsbD 0 = false := by decide

theorem witness_IrqFollowsCommandEnd : ∃ t, exec .nop { idle with irqen := true } = .next t ∧ irq t = true :=
  ⟨_, rfl, by decide⟩

/-- A BUSY state and an INIT state that meet the invariant, and a CTRL write that raises and one that lowers IRQ. -/
theorem witness_IrqFollowsCommandEnd_quiet :
    (issue 0#32 idle).Inv ∧ (issue 0#32 idle).engine ≠ .idle ∧ State.reset.Inv ∧ State.reset.engine ≠ .idle ∧
    (2#32).getLsbD 0 = false ∧ (0#32).getLsbD 0 = false := by
  refine ⟨⟨by decide, rfl, fun _ => ⟨rfl, rfl⟩, by unfold flagsMatchCode; decide, rfl⟩, by decide,
    ⟨by decide, rfl, fun _ => ⟨rfl, rfl⟩, by unfold flagsMatchCode; decide, rfl, rfl⟩, by decide, by decide, by decide⟩

theorem witness_BusyCommandKeepsItsOperands :
    ∀ turn ∈ [Turn.read 0x04000#20 4, .write 0x04000#20 4 7#32, .write 0x00008#20 4 2#32, .poll],
      { issue 0#32 idle with turns := [turn] }.engine = .busy 0#32 ∧
      { issue 0#32 idle with turns := [turn] }.turns = turn :: [] ∧ LeavesCommandAlone turn ∧
      ∃ t, step { issue 0#32 idle with turns := [turn] } = .next t := by
  intro turn h
  simp only [List.mem_cons, List.not_mem_nil, or_false] at h
  rcases h with rfl | rfl | rfl | rfl
  · exact ⟨rfl, rfl, trivial, _, rfl⟩
  · exact ⟨rfl, rfl, by unfold LeavesCommandAlone; decide, _, rfl⟩
  · exact ⟨rfl, rfl, by unfold LeavesCommandAlone; decide, _, rfl⟩
  · exact ⟨rfl, rfl, trivial, _, rfl⟩

theorem witness_PollEndsWithTheCommand :
    ∃ t, { issue 0#32 idle with turns := [.poll] }.engine = .busy 0#32 ∧ decode 0#32 = .ok .nop ∧
      { issue 0#32 idle with turns := [.poll] }.turns = .poll :: [] ∧
      exec .nop { issue 0#32 idle with turns := [.poll], reply := .read .okay (statusWord (issue 0#32 idle)) } =
        .next t :=
  ⟨_, rfl, by decide, rfl, rfl⟩

theorem witness_PowerOnResetsEverything : { idle with turns := [.powerOn] }.turns = .powerOn :: [] := by decide

/-- A running RS_ECC200 with N = 3 and E = 5 (V-X8): the region is CW[3, 8). -/
theorem witness_SoftReset :
    (1#32).getLsbD 0 = true ∧ (issue 1#32 (withArgs 5 1 0 (loaded [1, 2, 3]))).engine = .busy 1#32 ∧
    decode 1#32 = .ok .rsEcc200 ∧
    (∀ i ∈ [3, 7], InRegion .rsEcc200 (issue 1#32 (withArgs 5 1 0 (loaded [1, 2, 3]))) .cw i) ∧
    (∀ i ∈ [2, 8], ¬ InRegion .rsEcc200 (issue 1#32 (withArgs 5 1 0 (loaded [1, 2, 3]))) .cw i) := by
  unfold InRegion
  decide

/-- The grid regions of a running DM_PLACE of 8 × 8 and of a running DM_FRAME with its default operands of 1 × 1 regions of
8 × 8. -/
theorem witness_SoftReset_grids :
    (∀ i ∈ [0, 7 * 256 + 7], InRegion .dmPlace (withArgs 8 8 0 idle) .ga i) ∧
    (∀ i ∈ [8, 8 * 256], ¬ InRegion .dmPlace (withArgs 8 8 0 idle) .ga i) ∧
    (∀ i ∈ [0, 9 * 256 + 9], InRegion .dmFrame (withArgs 8 8 0x00010001 idle) .gb i) ∧
    (∀ i ∈ [10, 10 * 256], ¬ InRegion .dmFrame (withArgs 8 8 0x00010001 idle) .gb i) := by
  unfold InRegion
  decide

/-- The machine right after reset, with one move of the engine listed, meets the invariant. -/
theorem witness_InitialisationMakesReady :
    { State.reset with turns := [.engine] }.Inv ∧ { State.reset with turns := [.engine] }.engine = .init :=
  ⟨⟨by decide, rfl, fun _ => ⟨rfl, rfl⟩, by unfold flagsMatchCode; decide, rfl, rfl⟩, rfl⟩

theorem witness_GeneratorPolynomial : (1 : Nat) ≤ 255 ∧ (255 : Nat) ≤ 255 ∧ (1 : Nat) ≤ 1 := by decide

/-- RS_ECC200 at the limits of its shape: N + E = 4096, E / B = 255, and N = 0 (RsEcc200Completes,
RsBlocksAreCodewords). -/
theorem witness_RsEcc200 :
    ∀ p ∈ [(4091, 5, 1), (1, 255, 1), (0, 4, 2)],
      CwHolds (withArgs p.2.1 p.2.2 0 (loaded (List.replicate p.1 255))) (List.replicate p.1 255) ∧
      (∀ x ∈ List.replicate p.1 255, x ≤ 255) ∧
      (withArgs p.2.1 p.2.2 0 (loaded (List.replicate p.1 255))).gf = some gfTables ∧
      EccShape (List.replicate p.1 255).length (withArgs p.2.1 p.2.2 0 (loaded (List.replicate p.1 255))).arg1.toNat
        (withArgs p.2.1 p.2.2 0 (loaded (List.replicate p.1 255))).arg2.toNat := by
  intro p hp
  refine ⟨cwHolds_loaded _ _ _ _ ?_ ?_, ?_, rfl, ?_⟩
  · simp only [List.length_replicate]; revert p; decide
  · intro x hx; rw [List.eq_of_mem_replicate hx]; decide
  · intro x hx; rw [List.eq_of_mem_replicate hx]
  · rw [List.length_replicate]
    show EccShape p.1 (word p.2.1).toNat (word p.2.2).toNat
    revert p
    unfold EccShape
    decide

theorem witness_RsZeroData :
    CwHolds (withArgs 5 1 0 (loaded (List.replicate 3 0))) (List.replicate 3 0) ∧
    (withArgs 5 1 0 (loaded (List.replicate 3 0))).gf = some gfTables ∧ EccShape 3 5 1 :=
  ⟨cwHolds_loaded _ _ _ _ (by decide) (by decide), rfl, by unfold EccShape; decide⟩

/-- PDF_ECC at the limits: the levels 0 and 8, and N + k = 4096 (PdfEccCompletes, PdfCodewordHasItsRoots). -/
theorem witness_PdfEcc :
    ∀ p ∈ [(4094, 0), (3584, 8), (0, 0)],
      CwHolds (withArgs p.2 0 0 (loaded (List.replicate p.1 928))) (List.replicate p.1 928) ∧
      (∀ x ∈ List.replicate p.1 928, x ≤ 928) ∧
      (withArgs p.2 0 0 (loaded (List.replicate p.1 928))).arg1.toNat ≤ 8 ∧
      (List.replicate p.1 928).length + 2 ^ ((withArgs p.2 0 0 (loaded (List.replicate p.1 928))).arg1.toNat + 1)
        ≤ 4096 := by
  intro p hp
  refine ⟨cwHolds_loaded _ _ _ _ ?_ ?_, ?_, ?_, ?_⟩
  · simp only [List.length_replicate]; revert p; decide
  · intro x hx; rw [List.eq_of_mem_replicate hx]; decide
  · intro x hx; rw [List.eq_of_mem_replicate hx]
  · show (word p.2).toNat ≤ 8
    revert p; decide
  · rw [List.length_replicate]
    show p.1 + 2 ^ ((word p.2).toNat + 1) ≤ 4096
    revert p; decide

theorem witness_CkMod10 :
    CwHolds (withArgs 0 0 0 (loaded (List.replicate 4096 9))) (List.replicate 4096 9) ∧
    (∀ x ∈ List.replicate 4096 9, x ≤ 9) ∧ (List.replicate 4096 9).length ≤ 4096 ∧
    CwHolds (withArgs 0 0 0 (loaded ([] ++ [0]))) ([] ++ [0]) ∧ ((0 : Nat) = check10 []) ∧ ¬ ((9 : Nat) = check10 []) := by
  refine ⟨cwHolds_loaded _ _ _ _ (by simp only [List.length_replicate]; decide) ?_, ?_, ?_,
    cwHolds_loaded _ _ _ _ (by decide) (by decide), by decide, by decide⟩
  · intro x hx; rw [List.eq_of_mem_replicate hx]; decide
  · intro x hx; rw [List.eq_of_mem_replicate hx]
  · rw [List.length_replicate]

theorem witness_CkMod103 :
    CwHolds (withArgs 0 0 0 (loaded [65535, 0])) [65535, 0] ∧ ([65535, 0] : List Nat).length ≤ 4096 ∧
    CwHolds (withArgs 0 0 0 (loaded ([60000] ++ [54]))) ([60000] ++ [54]) ∧ (54 : Nat) = check103 1 [60000] :=
  ⟨cwHolds_loaded _ _ _ _ (by decide) (by decide), by decide, cwHolds_loaded _ _ _ _ (by decide) (by decide),
    by decide⟩

theorem witness_CkMod6 :
    CwHolds (withArgs 0 0 0 (loaded [35, 0])) [35, 0] ∧ (∀ x ∈ [35, 0], x ≤ 35) ∧
    CwHolds (withArgs 0 0 0 (loaded ([] ++ [35]))) ([] ++ [35]) ∧ (35 : Nat) = check6 false [] ∧
    (0 : Nat) = check6 true [] :=
  ⟨cwHolds_loaded _ _ _ _ (by decide) (by decide), by decide, cwHolds_loaded _ _ _ _ (by decide) (by decide),
    by decide, by decide⟩

theorem witness_CkFcs :
    CwHolds (withArgs 0 0 0 (loaded (List.replicate 13 255))) (List.replicate 13 255) ∧
    (∀ x ∈ List.replicate 13 255, x ≤ 255) ∧
    CwHolds (withArgs 0 0 0 (loaded (List.replicate 13 0 ++ [0x6E0]))) (List.replicate 13 0 ++ [0x6E0]) ∧
    (0x6E0 : Nat) ≤ 0x7FF ∧ (0x6E0 : Nat) = fcs 0x7FF (List.replicate 13 0) :=
  ⟨cwHolds_loaded _ _ _ _ (by decide) (by decide), by decide, cwHolds_loaded _ _ _ _ (by decide) (by decide),
    by decide, by decide +kernel⟩

theorem witness_VerifyAcceptsGeneratedCheck :
    CwHolds (withArgs 0 0 0 (loaded [9])) [9] ∧
    (∃ t, exec (.ckMod10 false) (withArgs 0 0 0 (loaded [9])) = .next t ∧ t.errcode = .none ∧ t.result0.toNat = 3) ∧
    CwHolds (withArgs 0 0 0 (loaded ([9] ++ [3]))) ([9] ++ [3]) ∧
    (withArgs 0 0 0 (loaded ([9] ++ [3]))).fcsInit = (withArgs 0 0 0 (loaded [9])).fcsInit :=
  ⟨cwHolds_loaded _ _ _ _ (by decide) (by decide), ⟨_, rfl, by decide, by decide⟩,
    cwHolds_loaded _ _ _ _ (by decide) (by decide), rfl⟩

/-- DM_PLACE on 10 × 10 with as many codewords as it takes, and with one too few. -/
theorem witness_DmPlaceOnSmallEcc200Sizes :
    (10, 10) ∈ smallEcc200Sizes ∧
    CwHolds (withArgs 10 10 0 (loaded (List.replicate 12 255))) (List.replicate 12 255) ∧
    10 * 10 / 8 ≤ (List.replicate 12 255).length ∧
    CwHolds (withArgs 10 10 0 (loaded (List.replicate 11 255))) (List.replicate 11 255) ∧
    (List.replicate 11 255).length + 1 = 10 * 10 / 8 ∧ (∀ x ∈ List.replicate 12 255, x ≤ 255) :=
  ⟨by decide, cwHolds_loaded _ _ _ _ (by decide) (by decide), by decide,
    cwHolds_loaded _ _ _ _ (by decide) (by decide), by decide, by decide⟩

theorem witness_PlacementIsBijection :
    (∃ p, placement 8 8 8 = .ok p ∧ decide (p.pos = 8 ∧ p.fill = 0) = true) ∧
    (∃ p, placement 0 2 2 = .ok p ∧ decide (p.pos = 0 ∧ p.fill = 1) = true) :=
  ⟨exists_of_ok _ _ (by decide +kernel), exists_of_ok _ _ (by decide +kernel)⟩

theorem witness_DmPlaceOutcomeIgnoresCodewords :
    CwHolds (withArgs 8 8 0 (loaded (List.replicate 8 0))) (List.replicate 8 0) ∧
    CwHolds (withArgs 8 8 0 (loaded (List.replicate 8 255))) (List.replicate 8 255) ∧
    (withArgs 8 8 0 (loaded (List.replicate 8 0))).len = (withArgs 8 8 0 (loaded (List.replicate 8 255))).len :=
  ⟨cwHolds_loaded _ _ _ _ (by decide) (by decide), cwHolds_loaded _ _ _ _ (by decide) (by decide), by decide⟩

theorem witness_DmPlaceCellsHoldCodewordBits_example :
    CwHolds (withArgs 8 8 0 (loaded [142, 164, 186, 114, 25, 5, 88, 102])) [142, 164, 186, 114, 25, 5, 88, 102] :=
  cwHolds_loaded _ _ _ _ (by decide) (by decide)

theorem witness_DmPlaceCellsHoldCodewordBits :
    CwHolds (withArgs 8 8 0 (loaded (List.replicate 8 255))) (List.replicate 8 255) ∧
    ∃ p, placement (List.replicate 8 255).length 8 8 = .ok p ∧
      decide (p.pos = 8) = true :=
  ⟨cwHolds_loaded _ _ _ _ (by decide) (by decide), exists_of_ok _ _ (by decide +kernel)⟩

theorem witness_DmPlaceDynamicErrorFrame :
    CwHolds (withArgs 7 7 0 (loaded (List.replicate 8 255))) (List.replicate 8 255) ∧
    placement (List.replicate 8 255).length 7 7 = .error (.error .overlap 3 0x00040005) ∧
    placement 0 1 1 = .error (.error .geometry 0 0) :=
  ⟨cwHolds_loaded _ _ _ _ (by decide) (by decide), eq_error_of _ _ (by decide +kernel),
    eq_error_of _ _ (by decide +kernel)⟩

/-- The idle machine with this grid A and the operands of DM_FRAME's largest symbol, 256 × 256 (V-DF5). -/
def frameState (g : Ram Cell) : State := withArgs 254 254 0x00010001 { idle with ga := g }

theorem frameState_operands (g : Ram Cell) :
    (frameState g).ga = g ∧ (frameState g).arg1.toNat = 254 ∧ (frameState g).arg2.toNat = 254 ∧
    (frameState g).arg3.toNat % 65536 = 1 ∧ (frameState g).arg3.toNat / 65536 = 1 ∧ 1 * (254 + 2) ≤ 256 :=
  ⟨rfl, show (word 254).toNat = 254 by decide, show (word 254).toNat = 254 by decide,
    show (word 0x00010001).toNat % 65536 = 1 by decide, show (word 0x00010001).toNat / 65536 = 1 by decide, by decide⟩

theorem witness_DmFrameCompletes :
    ∃ g, GridHolds (frameState g).ga (1 * 254) (1 * 254) (fun r c => decide (r = c)) := by
  refine ⟨Ram.writeRect [] (1 * 254) (1 * 254) (fun r c => .set (decide (r = c))), ?_⟩
  rw [(frameState_operands _).1]
  exact gridHolds_writeRect (1 * 254) (1 * 254) (fun r c => decide (r = c)) (by decide)

/-- GRID_EMIT of 256 rows whose 1280 events end at EV_DEPTH, and of the smallest grid. -/
theorem witness_GridEmitCompletes :
    (∀ s : State, s = withArgs 256 1 0
        { idle with ga := Ram.writeRect [] 256 1 (fun _ _ => .set true), evWptr := 6912#14 } →
      1 ≤ s.arg1.toNat ∧ s.arg1.toNat ≤ 256 ∧ 1 ≤ s.arg2.toNat ∧ s.arg2.toNat ≤ 256 ∧
      GridHolds s.ga s.arg1.toNat s.arg2.toNat (fun _ _ => true) ∧
      s.evWptr.toNat + ((List.range s.arg1.toNat).flatMap (gridRow s.arg2.toNat (fun _ _ => true))).length ≤ 8192) := by
  have hg := gridHolds_writeRect 256 1 (fun _ _ => true) (by decide)
  rintro s rfl
  have h1 : (word 256).toNat = 256 := by decide
  have h2 : (word 1).toNat = 1 := by decide
  refine ⟨by decide, by decide, by decide, by decide, ?_, by decide +kernel⟩
  simp only [withArgs, h1, h2]
  exact hg

theorem witness_BarsReproduceModules :
    ([true] : List Bool) ≠ [] ∧ List.replicate 4095 true ≠ [] ∧ (List.replicate 4095 true).length ≤ 4095 :=
  ⟨by decide, List.ne_nil_of_length_pos (by rw [List.length_replicate]; decide), List.length_replicate.le⟩

theorem witness_RowIndicators : (89 : Nat) < 90 ∧ (90 : Nat) ≤ 90 ∧ (30 : Nat) ≤ 30 ∧ (8 : Nat) ≤ 8 := by decide

/-- The state of program P3 before its PDF_ROWS, EV_WPTR chosen so that the 159 events end at EV_DEPTH. -/
def pdfState : State := withArgs 3 1 0 { loaded [1, 917, 27] with pt := toyPt, evWptr := 8033#14 }

theorem cwHolds_pdfState : CwHolds pdfState [1, 917, 27] := cwHolds_loaded [1, 917, 27] 3 1 0 (by decide) (by decide)

theorem witness_PdfRowsCompletes :
    CwHolds pdfState [1, 917, 27] ∧ (∀ x ∈ [1, 917, 27], x ≤ 928) ∧
    pdfState.arg1.toNat = 3 ∧ pdfState.arg2.toNat = 1 ∧ pdfState.arg3.toNat = 0 ∧
    (∀ y v, y < 3 → v ∈ rowOfSymbol [1, 917, 27] 3 1 0 y →
      (pdfState.pt.read ((y % 3) * 1024 + v)).map BitVec.toNat = some 0x1F540 ∧
      Nat.testBit 0x1F540 16 = true ∧ Nat.testBit 0x1F540 0 = false) ∧
    pdfState.evWptr.toNat +
      ((List.range 3).flatMap (pdfRow pdfState (fun _ _ => 0x1F540) [1, 917, 27] 3 1 0)).length ≤ 8192 := by
  have h : ∀ y, y < 3 → ∀ v ∈ rowOfSymbol [1, 917, 27] 3 1 0 y,
      (pdfState.pt.read ((y % 3) * 1024 + v)).map BitVec.toNat = some 0x1F540 ∧
      Nat.testBit 0x1F540 16 = true ∧ Nat.testBit 0x1F540 0 = false := by decide +kernel
  exact ⟨cwHolds_pdfState, by decide, by decide, by decide, by decide, fun y v hy hv => h y hy v hv, by decide +kernel⟩

theorem witness_PdfRowsEventCountFormula :
    pdfState.pdfStart = 0x1FEA8#17 ∧ pdfState.pdfStop = 0x3FA29#18 ∧
    (∀ i q, pdfState.pt.read i = some q → runCount (patternBits q.toNat 17) = 8) ∧
    ∃ p, pdfRowsPlan pdfState = .ok p ∧ decide (p.count = 159) = true := by
  have hall : ∀ e ∈ toyPt, runCount (patternBits e.2.toNat 17) = 8 := by decide +kernel
  refine ⟨by decide, by decide, fun i q h => ?_, exists_of_ok _ _ (by decide +kernel)⟩
  exact hall (i, q) (mem_of_read toyPt i q h)

/-- BAR_WALK of one entry, the events ending at EV_DEPTH (V-BW11), and entries of 1 and of 7 elements of width 15. -/
theorem witness_BarWalkCompletes :
    (7#4).toNat < 8 ∧
    (∀ s : State, s = withArgs 0 0 0 { loaded [10] with bt := [(10, 0x1113#32)], evWptr := 8187#14 } →
      CwHolds s [10] ∧ (∀ x ∈ [10], x < 256 ∧ ∃ t, s.bt.read x = some t ∧ EntryHolds t [1, 1, 1]) ∧
      s.evWptr.toNat + ([10].flatMap (fun x => walkGroup (7#4).toNat true x [1, 1, 1])).length ≤ 8192) ∧
    EntryHolds 0x000000F1#32 [15] ∧ EntryHolds 0xFFFFFFF7#32 [15, 15, 15, 15, 15, 15, 15] := by
  refine ⟨by decide, ?_, by unfold EntryHolds; decide, by unfold EntryHolds; decide⟩
  rintro s rfl
  refine ⟨cwHolds_loaded [10] 0 0 0 (by decide) (by decide), ?_, by decide⟩
  intro x hx
  rw [List.mem_singleton.1 hx]
  exact ⟨by decide, 0x1113#32, rfl, by unfold EntryHolds; decide⟩

/-- V-PR10, V-BW10 and a GRID_EMIT whose events do not fit. -/
theorem witness_OverflowingEmitters :
    (∃ p, pdfRowsPlan { pdfState with evWptr := 8034#14 } = .ok p ∧ decide (8192 < 8034 + p.events.length) = true) ∧
    (∃ p, barWalkPlan true 3#4 { loaded [10] with bt := [(10, 0x1113#32)], evWptr := 8188#14 } = .ok p ∧
      decide (8192 < 8188 + p.events.length) = true) ∧
    (∃ p, gridEmitPlan false (withArgs 1 3 0 { idle with gb := gridOf 3 [7], evWptr := 8188#14 }) = .ok p ∧
      decide (8192 < 8188 + p.events.length) = true) :=
  ⟨exists_of_ok _ _ (by decide +kernel), exists_of_ok _ _ (by decide +kernel), exists_of_ok _ _ (by decide +kernel)⟩

/-- The operand registers of the error clauses, each at the edge of its range. -/
theorem witness_OperandErrors :
    (∀ p ∈ [(0, 1), (5, 0), (10, 3), (256, 1)],
      (word p.2).toNat = 0 ∨ (word p.1).toNat = 0 ∨ (word p.1).toNat % (word p.2).toNat ≠ 0 ∨
        255 < (word p.1).toNat / (word p.2).toNat) ∧
    (4096 < (4092#13).toNat + (word 5).toNat ∧ (word 5).toNat % (word 1).toNat = 0 ∧
      (4092#13).toNat + (word 5).toNat < 2 ^ 32) ∧
    8 < (word 9).toNat ∧ ((word 8).toNat ≤ 8 ∧ 4096 < (3585#13).toNat + 2 ^ ((word 8).toNat + 1)) ∧
    ((0#13).toNat = 0 ∧ 4096 < (4097#13).toNat) ∧ ((12#13).toNat ≠ 13 + 0 ∧ (13#13).toNat ≠ 13 + 1) ∧
    (∀ p ∈ [(0, 8), (257, 8), (8, 0), (8, 257)],
      (word p.1).toNat < 1 ∨ 256 < (word p.1).toNat ∨ (word p.2).toNat < 1 ∨ 256 < (word p.2).toNat) ∧
    (∀ p ∈ [(1, 8, 0x10001), (8, 1, 0x10001), (7, 8, 0x10001), (8, 7, 0x10001), (8, 8, 0x10000), (8, 8, 0x00001),
        (128, 8, 0x10002), (8, 128, 0x20001)],
      (word p.1).toNat < 2 ∨ (word p.2.1).toNat < 2 ∨ (word p.1).toNat % 2 ≠ 0 ∨ (word p.2.1).toNat % 2 ≠ 0 ∨
        (word p.2.2).toNat % 65536 < 1 ∨ (word p.2.2).toNat / 65536 < 1 ∨
        256 < (word p.2.2).toNat % 65536 * ((word p.1).toNat + 2) ∨
        256 < (word p.2.2).toNat / 65536 * ((word p.2.1).toNat + 2)) ∧
    (∀ p ∈ [(0, 1), (91, 1), (3, 0), (3, 31)],
      (word p.1).toNat < 1 ∨ 90 < (word p.1).toNat ∨ (word p.2).toNat < 1 ∨ 30 < (word p.2).toNat) ∧
    ((word 90).toNat ≤ 90 ∧ (word 30).toNat ≤ 30 ∧ (2#13).toNat ≠ (word 90).toNat * (word 30).toNat) := by
  decide

/-- The first element out of range, at the limit of each command, behind one at the limit. -/
theorem witness_FirstElementOutOfRange :
    (∀ limit ∈ [9, 35, 255, 928],
      FirstAbove (withArgs 2 1 0 (loaded [limit, limit + 1])) limit 1 (limit + 1)) ∧
    (withArgs 2 1 0 (loaded [255, 256])).len.toNat = 2 ∧
    EccShape (withArgs 2 1 0 (loaded [255, 256])).len.toNat (word 2).toNat (word 1).toNat ∧
    FirstAbove (withArgs 0 0 0 (loaded (List.replicate 12 255 ++ [256]))) 255 12 256 ∧
    (withArgs 0 0 0 (loaded (List.replicate 12 255 ++ [256]))).len.toNat = 13 + 0 ∧
    (∀ j, j < 13 → ∃ u, (withArgs 0 0 0 (loaded (List.replicate 13 255 ++ [0x800]))).cw.read j = some u ∧
      u.toNat ≤ 255) ∧
    ((withArgs 0 0 0 (loaded (List.replicate 13 255 ++ [0x800]))).cw.read 13).map BitVec.toNat = some 0x800 := by
  refine ⟨?_, by decide, by unfold EccShape; decide, firstAbove_of _ _ _ _ (by decide) (by decide) (by decide),
    by decide, ?_, by decide⟩
  · intro limit h
    refine firstAbove_of _ _ _ _ ?_ ?_ (by omega)
    · revert limit; decide
    · revert limit; decide
  · exact (firstAbove_of (withArgs 0 0 0 (loaded (List.replicate 13 255 ++ [0x800]))) 255 13 0x800 (by decide)
      (by decide) (by decide)).1

/-- GA as V-DP1 with cell (3, 5) UNSET (V-DF7), for DM_FRAME and for GRID_EMIT of grid A. -/
theorem witness_FirstUnsetCell :
    (withArgs 8 8 0x00010001 idle).arg3.toNat % 65536 = 1 ∧ (withArgs 8 8 0x00010001 idle).arg3.toNat / 65536 = 1 ∧
    FirstUnset ((gridOf 8 [0x96, 0x82, 0x8E, 0x84, 0x07, 0xD8, 0xEC, 0x3A]).write (cellIndex 3 5) .unset) 8 8 3 5 := by
  refine ⟨by decide, by decide, by decide, by decide, by decide, fun y x hy hx h => ?_⟩
  have hall : ∀ y, y < 8 → ∀ x, x < 8 → (y < 3 ∨ (y = 3 ∧ x < 5)) → ∃ b,
      ((gridOf 8 [0x96, 0x82, 0x8E, 0x84, 0x07, 0xD8, 0xEC, 0x3A]).write (cellIndex 3 5) .unset).read (256 * y + x) =
        some (.set b) := by decide +kernel
  exact hall y hy x hx h

/-- Entries of count 0 and 8, and of an element of width 0, are not valid; the one before is (V-BW7, V-BW8). -/
theorem witness_FirstInvalidBarEntry :
    CwHolds (withArgs 0 0 0 { loaded [10, 12] with bt := [(10, 0x1113#32), (12, 0x00000032#32)] }) [10, 12] ∧
    EntryHolds 0x1113#32 [1, 1, 1] ∧ (∀ ws, ¬ EntryHolds 0x00000032#32 ws) ∧ (∀ ws, ¬ EntryHolds 0x00000008#32 ws) ∧
    (∀ ws, ¬ EntryHolds 0x00000000#32 ws) := by
  refine ⟨cwHolds_loaded [10, 12] 0 0 0 (by decide) (by decide), by unfold EntryHolds; decide, ?_, ?_, ?_⟩
  · rintro ws ⟨-, -, hn, hw⟩
    exact (hw 1 (by rw [← hn]; decide)).2 (by decide)
  · rintro ws ⟨-, h7, hn, -⟩
    have : (0x00000008#32).toNat % 16 = 8 := by decide
    omega
  · rintro ws ⟨h1, -, hn, -⟩
    have : (0x00000000#32).toNat % 16 = 0 := by decide
    omega

/-- V-PR8: PT[1][917] = 0x0F540 is the first pattern that does not start black. -/
theorem witness_FirstInvalidPattern :
    (rowOfSymbol [1, 917, 27] 3 1 0 1)[1]? = some 917 ∧
    (∀ y' k' v', (y' < 1 ∨ (y' = 1 ∧ k' < 1)) → (rowOfSymbol [1, 917, 27] 3 1 0 y')[k']? = some v' →
      ∃ q, (toyPt.write 1941 0x0F540#17).read ((y' % 3) * 1024 + v') = some q ∧
        q.getLsbD 16 = true ∧ q.getLsbD 0 = false) ∧
    (toyPt.write 1941 0x0F540#17).read ((1 % 3) * 1024 + 917) = some 0x0F540#17 ∧
    ((0x0F540#17).getLsbD 16 = false ∨ (0x0F540#17).getLsbD 0 = true) := by
  refine ⟨by decide, ?_, by decide, by decide⟩
  rintro y' k' v' (hy | ⟨rfl, hk⟩) hv
  · obtain rfl : y' = 0 := by omega
    have hall : ∀ v ∈ rowOfSymbol [1, 917, 27] 3 1 0 0,
        (toyPt.write 1941 0x0F540#17).read ((0 % 3) * 1024 + v) = some 0x1F540#17 := by decide
    exact ⟨_, hall v' (List.mem_of_getElem? hv), by decide, by decide⟩
  · obtain rfl : k' = 0 := by omega
    have h2 : (rowOfSymbol [1, 917, 27] 3 1 0 1)[0]? = some 2 := by decide
    rw [h2] at hv
    cases hv
    exact ⟨0x1F540#17, by decide, by decide, by decide⟩

theorem witness_ErrorsLeaveRamsAsTheyWere :
    Instr.pdfEcc ≠ .dmPlace ∧ ∃ t, exec .pdfEcc (withArgs 9 0 0 idle) = .next t ∧ t.errcode ≠ .none :=
  ⟨by decide, _, rfl, by decide⟩

/-- Two states that agree in what a command reads and differ in registers it does not read: one command for each row of
R77's table with a dash in ARG1 to ARG3, and one for DM_FRAME's dash in LEN. -/
theorem witness_OutputsDependOnlyOnInputs :
    (∀ i ∈ [Instr.nop, .ckMod10 false, .ckMod103 true, .ckMod6 true, .barWalk true 2#4],
      ReadsAgree i (loaded []) (withArgs 1 2 3 { loaded [] with pdfStart := 0#17, fcsInit := 0#11 })) ∧
    ReadsAgree .rsEcc200 (withArgs 5 1 0 (loaded [])) (withArgs 5 1 9 { loaded [] with rmlit := true }) ∧
    ReadsAgree .dmFrame (withArgs 8 8 0x00010001 idle) (withArgs 8 8 0x00010001 (loaded [1, 2])) := by
  refine ⟨?_, ⟨⟨rfl, fun _ _ => rfl⟩, rfl, rfl, rfl⟩, rfl, rfl, rfl, fun _ _ _ _ _ _ => rfl⟩
  intro i h
  simp only [List.mem_cons, List.not_mem_nil, or_false] at h
  rcases h with rfl | rfl | rfl | rfl | rfl
  · trivial
  · exact ⟨rfl, fun _ _ => rfl⟩
  · exact ⟨⟨rfl, fun _ _ => rfl⟩, rfl⟩
  · exact ⟨⟨rfl, fun _ _ => rfl⟩, rfl⟩
  · exact ⟨⟨rfl, fun _ _ => rfl⟩, rfl, fun _ _ _ _ => rfl⟩

theorem witness_CommandsChangeOnlyTheirOutputs : ∃ t, exec .nop idle = .next t := ⟨_, rfl⟩

/-- A machine that runs a command and meets the invariant. -/
theorem busy_inv (w : Word) (n : BitVec 13) : State.Inv { issue w idle with len := n } :=
  ⟨rfl, rfl, fun _ => ⟨rfl, rfl⟩, ⟨fun _ => rfl, fun h => absurd (show false = true from h) (by decide)⟩, rfl⟩

theorem witness_StepKeepsInvariant :
    State.Inv { issue 0#32 idle with len := 0#13 } ∧ ∃ t, step { issue 0#32 idle with len := 0#13 } = .next t :=
  ⟨busy_inv _ _, _, rfl⟩

theorem witness_OnlyUnwrittenEntriesFault :
    State.Inv { issue 0x10#32 idle with len := 1#13 } ∧
    step { issue 0x10#32 idle with len := 1#13 } = .fault (.unwritten .cw 0) :=
  ⟨busy_inv _ _, rfl⟩

/-- The first unwritten element: CW[0] of one element, CW[12] of the 13 bytes of CK_FCS with the others at the limit, and
CW[13], the FCS the verify form is supplied. -/
theorem witness_UnwrittenElementFaults :
    FirstUnwritten { idle with len := 1#13 } 9 0 ∧ { idle with len := 1#13 }.len.toNat = 1 ∧
    FirstUnwritten { loaded (List.replicate 12 255) with len := 13#13 } 255 12 ∧
    FirstUnwritten { loaded (List.replicate 13 255) with len := 14#13 } 255 13 ∧
    { loaded (List.replicate 13 255) with len := 14#13 }.len.toNat = 13 + 1 := by
  have h12 : ∀ j, j < 12 → { loaded (List.replicate 12 255) with len := 13#13 }.cw.read j = some 255#16 := by decide
  have h13 : ∀ j, j < 13 → { loaded (List.replicate 13 255) with len := 14#13 }.cw.read j = some 255#16 := by decide
  exact ⟨⟨fun j h => absurd h (by omega), by decide⟩, by decide,
    ⟨fun j h => ⟨_, h12 j h, by decide⟩, by decide⟩, ⟨fun j h => ⟨_, h13 j h, by decide⟩, by decide⟩, by decide⟩

/-- The last cell of a 2 × 2 region is unwritten, for DM_FRAME and GRID_EMIT; BT[3] is unwritten behind a valid BT[0]; and
PT[1][0], for the right indicator of row 1, is the first unwritten pattern of 2 × 1 codewords. -/
theorem witness_UnwrittenTableFaults :
    FirstUnwrittenCell [(0, .set true), (1, .set false), (256, .set true)] 2 2 1 1 ∧
    (∃ ws, EntryHolds 0x1113#32 ws) ∧ Ram.read [(0, 0x1113#32)] 3 = none ∧
    rowOfSymbol [3, 4] 2 1 1 1 = [4, 4, 0] ∧ rowOfSymbol [3, 4] 2 1 1 0 = [0, 3, 0] ∧
    (∀ v ∈ rowOfSymbol [3, 4] 2 1 1 0, Ram.read [(0, 0x10000#17), (3, 0x10000#17), (1028, 0x10000#17)] v =
      some 0x10000#17) ∧
    Ram.read [(0, 0x10000#17), (3, 0x10000#17), (1028, 0x10000#17)] (1 % 3 * 1024 + 0) = none ∧
    (0x10000#17).getLsbD 16 = true ∧ (0x10000#17).getLsbD 0 = false := by
  refine ⟨⟨by decide, by decide, by decide, fun y x hy hx h => ?_⟩, ⟨[1, 1, 1], by unfold EntryHolds; decide⟩,
    by decide, by decide, by decide, by decide, by decide, by decide, by decide⟩
  have hall : ∀ y, y < 2 → ∀ x, x < 2 → (y < 1 ∨ (y = 1 ∧ x < 1)) → ∃ b,
      Ram.read [(0, Cell.set true), (1, .set false), (256, .set true)] (256 * y + x) = some (.set b) := by decide
  exact hall y hy x hx h

/-- A RAM with the same value in its first `n` entries. -/
theorem isSome_read_replicate {α : Type} (v : α) (n i : Nat) (h : i < n) :
    ((Ram.block 0 (List.replicate n v)).read i).isSome = true := by
  rw [Ram.read_block, if_pos (Nat.zero_le i), Nat.sub_zero, List.getElem?_eq_getElem (by simpa using h)]
  rfl

/-- Such a RAM has the canonical form. -/
theorem form_replicate {α : Type} (v : α) (n : Nat) :
    (Ram.block 0 (List.replicate n v)).sorted = true ∧ (Ram.block 0 (List.replicate n v)).below n = true := by
  refine ⟨(Ram.sorted_iff _).2 (Ram.pairwise_block _ _), ?_⟩
  simp only [Ram.below, List.all_eq_true, decide_eq_true_eq]
  intro p hp
  have := (Ram.mem_block _ _ p hp).2
  simpa using this

/-- PT with a value in each of its 3 × 929 entries. -/
def fullPt : Ram (BitVec 17) :=
  ((Ram.writeBlock [] 0 (List.replicate 929 0x1F540#17)).writeBlock 1024 (List.replicate 929 0x1F540#17)).writeBlock 2048
    (List.replicate 929 0x1F540#17)

/-- The idle machine with every entry of every RAM written. -/
def fullState : State :=
  { idle with
    cw := Ram.block 0 (List.replicate 4096 0#16)
    ga := Ram.block 0 (List.replicate 65536 (.set true))
    gb := Ram.block 0 (List.replicate 65536 (.set true))
    ev := Ram.block 0 (List.replicate 8192 0#32)
    bt := Ram.block 0 (List.replicate 256 0x1113#32)
    pt := fullPt }

theorem isSome_read_fullPt (cl v : Nat) (hcl : cl < 3) (hv : v < 929) :
    (fullPt.read (ptIndex cl v)).isSome = true := by
  unfold fullPt ptIndex
  simp only [Ram.read_writeBlock, List.length_replicate]
  obtain rfl | rfl | rfl : cl = 0 ∨ cl = 1 ∨ cl = 2 := by omega
  · rw [if_neg (by omega), if_neg (by omega), if_pos (by omega), List.getElem?_eq_getElem (by rw [List.length_replicate]; omega)]
    rfl
  · rw [if_neg (by omega), if_pos (by omega), List.getElem?_eq_getElem (by rw [List.length_replicate]; omega)]
    rfl
  · rw [if_pos (by omega), List.getElem?_eq_getElem (by rw [List.length_replicate]; omega)]
    rfl

/-- The index names an entry PT has. -/
def ptIndexOk (i : Nat) : Bool := decide (i / 1024 < Config.pdfClusters) && decide (i % 1024 < Config.pdfCwCount)

theorem ptIndexOk_of (cl i : Nat) (hcl : cl < 3) (h1 : cl * 1024 ≤ i)
    (h2 : i < cl * 1024 + (List.replicate 929 0x1F540#17).length) : ptIndexOk i = true := by
  rw [List.length_replicate] at h2
  simp only [ptIndexOk, Config.pdfClusters, Config.pdfCwCount, Bool.and_eq_true, decide_eq_true_eq]
  omega

theorem form_fullPt : fullPt.sorted = true ∧ ptInRange fullPt = true := by
  refine ⟨Ram.sorted_writeBlock _ _ _ (Ram.sorted_writeBlock _ _ _ (Ram.sorted_writeBlock _ _ _ rfl)), ?_⟩
  have h0 : (Ram.writeBlock [] 0 (List.replicate 929 0x1F540#17)).all (fun p => ptIndexOk p.1) = true :=
    Ram.all_writeBlock [] 0 (List.replicate 929 0x1F540#17) ptIndexOk rfl
      (fun i h1 h2 => ptIndexOk_of 0 i (by decide) (by omega) (by omega))
  have h1 := Ram.all_writeBlock _ 1024 (List.replicate 929 0x1F540#17) ptIndexOk h0
    (fun i h1 h2 => ptIndexOk_of 1 i (by decide) (by omega) (by omega))
  exact Ram.all_writeBlock _ 2048 (List.replicate 929 0x1F540#17) ptIndexOk h1
    (fun i h1 h2 => ptIndexOk_of 2 i (by decide) (by omega) (by omega))

theorem witness_FullyWrittenMachineGoesOn : fullState.Inv ∧ fullyWritten fullState := by
  refine ⟨⟨?_, rfl, fun h => absurd rfl h, ⟨fun _ => rfl, fun h => absurd (show false = true from h) (by decide)⟩, trivial⟩, ?_⟩
  · rw [memory_wf_iff]
    exact ⟨form_replicate _ _, form_replicate _ _, form_replicate _ _, form_replicate _ _, form_replicate _ _,
      form_fullPt⟩
  · exact ⟨fun i h => isSome_read_replicate _ _ i h, fun i h => isSome_read_replicate _ _ i h,
      fun i h => isSome_read_replicate _ _ i h, fun i h => isSome_read_replicate _ _ i h,
      fun cl v h1 h2 => isSome_read_fullPt cl v h1 h2⟩

end Sys2Proof.Tests
end

section

/-! PROOF. How every command ends. A command's work is followed once by the judgement `Yields`: what it delivers, and that it
stops only with an error code of R161 other than NONE or at a read that R49 makes a fault. From it comes `exec_ends`, the
list of all ends of all commands, on which the statements about commands, steps and the invariant rest. -/

namespace Sys2Proof.Proofs

open Sys2Proof Sys2Proof.Machine Sys2Proof.Claims

/-! ## The ends of a command -/

/-- The index names an entry that a command may read: one that exists, and none of EV, which the host alone reads (R37 to
R41, R51, R55). -/
def ReadByCommands : RamName → Nat → Prop
  | .cw, i => i < Config.cwDepth
  | .ga, i => i < Config.gridDim * Config.gridDim
  | .gb, i => i < Config.gridDim * Config.gridDim
  | .ev, _ => False
  | .bt, i => i < Config.bartabDepth
  | .pt, i => ∃ cl v, cl < Config.pdfClusters ∧ v < Config.pdfCwCount ∧ i = ptIndex cl v

/-- `u` is `s` with what command `i` writes to a RAM before it completes, inside the RAM's depth (R39 to R41). -/
def Writes (i : Instr) (s u : State) : Prop :=
  match i with
  | .rsEcc200 | .pdfEcc =>
    ∃ vs : List (BitVec 16), lenN s + vs.length ≤ Config.cwDepth ∧ u = { s with cw := s.cw.writeBlock (lenN s) vs }
  | .dmPlace =>
    ∃ rows cols f, rows ≤ Config.gridDim ∧ cols ≤ Config.gridDim ∧ u = { s with ga := s.ga.writeRect rows cols f }
  | .dmFrame =>
    ∃ rows cols f, rows ≤ Config.gridDim ∧ cols ≤ Config.gridDim ∧ u = { s with gb := s.gb.writeRect rows cols f }
  | .gridEmit _ | .pdfRows | .barWalk _ _ =>
    ∃ evs : List Word, s.evWptr.toNat + evs.length ≤ Config.evDepth ∧
      u = { s with
        ev := s.ev.writeBlock s.evWptr.toNat evs
        evWptr := BitVec.ofNat 14 (s.evWptr.toNat + evs.length) }
  | .nop | .ckMod10 _ | .ckMod103 _ | .ckMod6 _ | .ckFcs _ => u = s

/-- The ways command `i` may end from state `s`: with its writes and a completion (R86), with an error (R88; in DM_PLACE's
placement after GA's region is lost, R89), or at a read that faults (R49, log entry 13). -/
inductive Ends (i : Instr) (s : State) : Host.Outcome State Fault Refusal → Prop
  | completes (u : State) (r0 r1 : Nat) (hu : Writes i s u) : Ends i s (.next (complete r0 r1 u))
  | errs (code : ErrCode) (r0 r1 : Nat) (hc : code ≠ .none) : Ends i s (.next (raiseError code r0 r1 s))
  | placementErrs (code : ErrCode) (r0 r1 rows cols : Nat) (hc : code ≠ .none) (hi : i = .dmPlace)
      (hrows : rows ≤ Config.gridDim) (hcols : cols ≤ Config.gridDim) :
      Ends i s (.next (raiseError code r0 r1 (scrambleGa s rows cols)))
  | unwritten (name : RamName) (idx : Nat) (hread : entryOf s name idx = none) (hidx : ReadByCommands name idx) :
      Ends i s (.fault (.unwritten name idx))
  | noTables (hgf : s.gf = none) : Ends i s (.fault .romNotBuilt)

/-! ## The ways a command's work may stop -/

/-- The ways a command's work may stop in state `s`: with an error that has a code (R88, R161), at an existing entry nothing
has written (R49), or without the tables (R183). -/
def HaltOk (s : State) : Halt → Prop
  | .error code _ _ => code ≠ .none
  | .fault (.unwritten name i) => entryOf s name i = none ∧ ReadByCommands name i
  | .fault .romNotBuilt => s.gf = none

/-- The work delivers only values with the property, and stops only in the ways a command may. -/
def Yields {α : Type} (s : State) (w : Work α) (post : α → Prop) : Prop :=
  match w with
  | .ok a => post a
  | .error h => HaltOk s h

theorem yields_ok {α : Type} {s : State} {a : α} {post : α → Prop} (h : post a) : Yields s (.ok a) post := h

/-- Work in sequence: what the first part delivers is known to the rest. -/
theorem yields_bind {α β : Type} {s : State} {x : Work α} {f : α → Work β} {mid : α → Prop} {post : β → Prop}
    (hx : Yields s x mid) (hf : ∀ a, mid a → Yields s (f a) post) : Yields s (x >>= f) post := by
  cases x with
  | ok a => exact hf a hx
  | error h => exact hx

theorem yields_mono {α : Type} {s : State} {w : Work α} {mid post : α → Prop} (hw : Yields s w mid)
    (h : ∀ a, mid a → post a) : Yields s w post := by
  cases w with
  | ok a => exact h a hw
  | error e => exact hw

theorem yields_ite {α : Type} {s : State} {c : Prop} [Decidable c] {x y : Work α} {post : α → Prop}
    (hx : Yields s x post) (hy : Yields s y post) : Yields s (if c then x else y) post := by
  split
  · exact hx
  · exact hy

/-- After a check its condition is known. -/
theorem yields_require {s : State} {ok : Bool} {code : ErrCode} {r0 r1 : Nat} (hc : code ≠ .none) :
    Yields s (require ok code r0 r1) (fun _ => ok = true) := by
  cases ok with
  | true => exact yields_ok rfl
  | false => exact hc

/-! ## Reads -/

theorem yields_readEntry {α : Type} {s : State} {name : RamName} {m : Ram α} {i : Nat}
    (hm : m.read i = none → entryOf s name i = none) (hi : ReadByCommands name i) :
    Yields s (readEntry name m i) (fun _ => True) := by
  cases hr : readEntry name m i with
  | ok v => exact yields_ok trivial
  | error h =>
    obtain ⟨hnone, rfl⟩ := (readEntry_eq_error name m i h).1 hr
    exact ⟨hm hnone, hi⟩

/-- Elements read inside CW: as many as asked for, each at most the limit. -/
theorem yields_readRanged {s : State} {limit i n : Nat} (hn : i + n ≤ Config.cwDepth) :
    Yields s (readRanged s limit i n) (fun xs => xs.length = n ∧ ∀ x ∈ xs, x ≤ limit) := by
  cases hr : readRanged s limit i n with
  | ok xs =>
    obtain ⟨hlen, hxs⟩ := (readRanged_eq_ok s limit i n xs).1 hr
    refine yields_ok ⟨hlen, fun x hx => ?_⟩
    obtain ⟨j, hj, rfl⟩ := List.mem_iff_getElem.1 hx
    simpa [hj] using (hxs j (hlen ▸ hj)).2
  | error h =>
    obtain ⟨j, hj, -, hat⟩ := (readRanged_eq_error s limit i n h).1 hr
    rcases hat with ⟨hnone, rfl⟩ | ⟨v, -, -, rfl⟩
    · exact ⟨by simp [entryOf, hnone], show i + j < Config.cwDepth by omega⟩
    · exact nofun

/-- One of the two grids, under its name, that a command reads cells from. -/
def GridOf (s : State) (name : RamName) (g : Ram Cell) : Prop :=
  (name = .ga ∧ g = s.ga) ∨ (name = .gb ∧ g = s.gb)

theorem yields_readSetCell {s : State} {name : RamName} {g : Ram Cell} {r c : Nat} (hg : GridOf s name g)
    (hr : r < Config.gridDim) (hc : c < Config.gridDim) : Yields s (readSetCell name g r c) (fun _ => True) := by
  have hin : cellIndex r c < Config.gridDim * Config.gridDim := by
    simp only [cellIndex, Config.gridDim] at *; omega
  cases hw : readSetCell name g r c with
  | ok b => exact yields_ok trivial
  | error h =>
    rcases (readSetCell_eq_error name g r c h).1 hw with ⟨hnone, rfl⟩ | ⟨-, rfl⟩
    · rcases hg with ⟨rfl, rfl⟩ | ⟨rfl, rfl⟩ <;> exact ⟨by simp [entryOf, hnone], hin⟩
    · exact nofun

theorem yields_readRow {s : State} {name : RamName} {g : Ram Cell} {r : Nat} (hg : GridOf s name g)
    (hr : r < Config.gridDim) (n c : Nat) (hc : c + n ≤ Config.gridDim) :
    Yields s (readRow name g r c n) (fun row => row.length = n) := by
  induction n generalizing c with
  | zero => exact yields_ok rfl
  | succ n ih =>
    refine yields_bind (yields_readSetCell hg hr (by omega)) fun b _ => ?_
    exact yields_bind (ih (c + 1) (by omega)) fun row hlen => yields_ok (by simp [hlen])

/-- Rows read inside the grid are as long as asked for. -/
theorem yields_readRows {s : State} {name : RamName} {g : Ram Cell} {cols : Nat} (hg : GridOf s name g)
    (hcols : cols ≤ Config.gridDim) (n r : Nat) (hr : r + n ≤ Config.gridDim) :
    Yields s (readRows name g cols r n) (fun rows => ∀ row ∈ rows, row.length = cols) := by
  induction n generalizing r with
  | zero => exact yields_ok (by simp)
  | succ n ih =>
    refine yields_bind (yields_readRow hg (by omega) cols 0 (by omega)) fun row hlen => ?_
    exact yields_bind (ih (r + 1) (by omega)) fun rows hrows => yields_ok (List.forall_mem_cons.2 ⟨hlen, hrows⟩)

theorem yields_readTables {s : State} : Yields s (readTables s) (fun _ => True) := by
  unfold readTables
  cases hgf : s.gf with
  | some t => exact yields_ok trivial
  | none => exact hgf

theorem yields_readBarEntries {s : State} (xs : List Nat) (hxs : ∀ x ∈ xs, x < Config.bartabDepth) :
    Yields s (readBarEntries s xs) (fun _ => True) := by
  induction xs with
  | nil => exact yields_ok trivial
  | cons x xs ih =>
    obtain ⟨hx, hrest⟩ := List.forall_mem_cons.1 hxs
    refine yields_bind (yields_readEntry (by simp [entryOf]) hx) fun t _ => ?_
    refine yields_bind (yields_require nofun) fun _ _ => ?_
    exact yields_bind (ih hrest) fun more _ => yields_ok trivial

theorem yields_readPatterns {s : State} {cl : Nat} (hcl : cl < Config.pdfClusters) (vs : List Nat)
    (hvs : ∀ v ∈ vs, v < Config.pdfCwCount) : Yields s (readPatterns s cl vs) (fun _ => True) := by
  induction vs with
  | nil => exact yields_ok trivial
  | cons v vs ih =>
    obtain ⟨hv, hrest⟩ := List.forall_mem_cons.1 hvs
    refine yields_bind (yields_readEntry (by simp [entryOf]) ⟨cl, v, hcl, hv, rfl⟩) fun p _ => ?_
    refine yields_bind (yields_require nofun) fun _ _ => ?_
    exact yields_bind (ih hrest) fun more _ => yields_ok trivial

/-- Both row indicators are codewords, and so is every codeword of a row (R149, R150). -/
theorem rowCodewords_lt {data : List Nat} {r c level y : Nat} (hr : r ≤ Config.pdfRowsMax)
    (hc : c ≤ Config.pdfColsMax) (hl : level ≤ Config.pdfLevelMax) (hy : y < r)
    (hdata : ∀ x ∈ data, x ≤ Config.pdfCwCount - 1) :
    ∀ v ∈ rowCodewords data r c level y, v < Config.pdfCwCount := by
  simp only [Config.pdfRowsMax, Config.pdfColsMax, Config.pdfLevelMax, Config.pdfCwCount] at *
  have hleft : leftIndicator y r c level < 929 := by unfold leftIndicator; split_ifs <;> omega
  have hright : rightIndicator y r c level < 929 := by unfold rightIndicator; split_ifs <;> omega
  intro v hv
  simp only [rowCodewords, List.mem_cons, List.mem_append, List.not_mem_nil, or_false] at hv
  rcases hv with rfl | hv | rfl
  · exact hleft
  · have := hdata v (List.mem_of_mem_drop (List.mem_of_mem_take hv)); omega
  · exact hright

theorem yields_readRowPatterns {s : State} {data : List Nat} {r c level : Nat} (hr : r ≤ Config.pdfRowsMax)
    (hc : c ≤ Config.pdfColsMax) (hl : level ≤ Config.pdfLevelMax) (hdata : ∀ x ∈ data, x ≤ Config.pdfCwCount - 1)
    (n y : Nat) (hy : y + n ≤ r) : Yields s (readRowPatterns s data r c level y n) (fun _ => True) := by
  induction n generalizing y with
  | zero => exact yields_ok trivial
  | succ n ih =>
    have hcl : y % Config.pdfClusters < Config.pdfClusters := Nat.mod_lt _ (by decide)
    refine yields_bind (yields_readPatterns hcl _ (rowCodewords_lt hr hc hl (by omega) hdata)) fun row _ => ?_
    exact yields_bind (ih (y + 1) (by omega)) fun rows _ => yields_ok trivial

/-! ## The checks of the checksum commands -/

theorem yields_checkLength {s : State} {verify : Bool} {n : Nat} :
    Yields s (checkLength verify n) (fun _ => n ≤ Config.cwDepth) :=
  yields_mono (yields_require nofun) fun _ h => by
    simp only [Bool.not_eq_true', Bool.or_eq_false_iff, decide_eq_false_iff_not] at h; omega

theorem yields_checkSupplied {s : State} {verify : Bool} {xs : List Nat} {chk : Nat} :
    Yields s (checkSupplied verify xs chk) (fun _ => True) := by
  cases verify with
  | true => exact yields_mono (yields_require nofun) fun _ _ => trivial
  | false => exact yields_ok trivial

/-! ## The placement: it reads no RAM, so it stops with an error alone (R134) -/

theorem yields_placeModule {s : State} {R C pos bit : Nat} {sheet : List (List Mark)} {cell : Int × Int} :
    Yields s (placeModule R C pos bit sheet cell) (fun _ => True) :=
  yields_ite (yields_ite (yields_ok trivial) nofun) nofun

theorem yields_placeBits {s : State} {R C pos : Nat} (cells : List (Int × Int)) (bit : Nat)
    (sheet : List (List Mark)) : Yields s (placeBits R C pos bit cells sheet) (fun _ => True) := by
  induction cells generalizing bit sheet with
  | nil => exact yields_ok trivial
  | cons cell cells ih => exact yields_bind yields_placeModule fun next _ => ih (bit + 1) next

theorem yields_placePattern {s : State} {N R C : Nat} {cells : List (Int × Int)} {p : Placing} :
    Yields s (placePattern N R C cells p) (fun _ => True) :=
  yields_bind (yields_require nofun) fun _ _ => yields_bind (yields_placeBits _ _ _) fun _ _ => yields_ok trivial

theorem yields_placeMove {s : State} {N R C : Nat} {p : Placing} (m : Move) :
    Yields s (placeMove N R C p m) (fun _ => True) := by
  cases m with
  | corner cells => exact yields_placePattern
  | anchor row col => exact yields_ite yields_placePattern (yields_ok trivial)

theorem yields_placeAll {s : State} {N R C : Nat} (moves : List Move) (p : Placing) :
    Yields s (placeAll N R C moves p) (fun _ => True) := by
  induction moves generalizing p with
  | nil => exact yields_ok trivial
  | cons m moves ih => exact yields_bind (yields_placeMove m) fun q _ => ih q

theorem yields_fillCells {s : State} {pos : Nat} (cells : List (Nat × Nat × Bool)) (sheet : List (List Mark)) :
    Yields s (fillCells pos cells sheet) (fun _ => True) := by
  induction cells generalizing sheet with
  | nil => exact yields_ok trivial
  | cons cell cells ih => exact yields_bind (yields_require nofun) fun _ _ => ih _

theorem yields_cornerFill {s : State} {R C : Nat} {p : Placing} : Yields s (cornerFill R C p) (fun _ => True) := by
  refine yields_ite (yields_bind (yields_require nofun) fun _ _ => ?_) (yields_ok trivial)
  exact yields_bind (yields_fillCells _ _) fun _ _ => yields_ok trivial

theorem yields_placement {s : State} {N R C : Nat} : Yields s (placement N R C) (fun _ => True) := by
  refine yields_bind (yields_placeAll _ _) fun p _ => yields_bind yields_cornerFill fun q _ => ?_
  cases firstUnset 0 q.1 with
  | some cell => exact nofun
  | none => exact yields_ok trivial

theorem inGrid_le {n : Nat} (h : inGrid n = true) : 1 ≤ n ∧ n ≤ Config.gridDim := by
  simpa [inGrid] using h

theorem yields_placeOperands {s : State} :
    Yields s (placeOperands s) (fun _ => arg1N s ≤ Config.gridDim ∧ arg2N s ≤ Config.gridDim) := by
  refine yields_bind (yields_require nofun) fun _ hgrid => yields_bind (yields_require nofun) fun _ hlen => ?_
  obtain ⟨hrows, hcols⟩ := (Bool.and_eq_true _ _).mp hgrid
  refine yields_mono (yields_readRanged (by simpa using hlen)) fun _ _ => ?_
  exact ⟨(inGrid_le hrows).2, (inGrid_le hcols).2⟩

end Sys2Proof.Proofs

end

section

/-! PROOF. What the commands write, by length, and the ends of every command. -/

namespace Sys2Proof.Proofs

open Sys2Proof Sys2Proof.Machine Sys2Proof.Claims

/-! ## The number of entries a command writes -/

/-- RS_ECC200 delivers k codewords for each of the B blocks (R116). -/
theorem length_eccArea (t : GfTables) (k B : Nat) (data : List (BitVec 8)) :
    (eccArea t k B data).length = k * B := by
  simp [eccArea, List.length_flatMap]

theorem length_pdfRemainder_le (a data : List Nat) : (pdfRemainder a data).length ≤ a.length := by
  unfold pdfRemainder
  induction data using List.reverseRecOn with
  | nil => simp
  | append_singleton data d _ =>
    rw [List.foldl_append]
    simp [pdfStep]

/-- PDF_ECC delivers at most 2^(L+1) codewords (R121, R122). -/
theorem length_pdfEcc_le (level : Nat) (data : List Nat) :
    (pdfEcc (Config.pdfEcCoeff level) data).length ≤ 2 ^ (level + 1) := by
  have hrem := length_pdfRemainder_le (Config.pdfEcCoeff level) data
  have hcoeff : (Config.pdfEcCoeff level).length ≤ 2 ^ (level + 1) := List.length_take_le ..
  simp only [pdfEcc, List.length_map, List.length_reverse]
  omega

/-- GRID_EMIT writes T events for rows that are not empty (R141). -/
theorem length_gridEvents (rows : List (List Bool)) (hrows : ∀ row ∈ rows, row ≠ []) (y : Nat) :
    (gridEvents y rows).length = gridEventCount rows := by
  induction rows generalizing y with
  | nil => rfl
  | cons row rows ih =>
    obtain ⟨hrow, hrest⟩ := List.forall_mem_cons.1 hrows
    simp only [gridEvents, gridRowEvents, List.length_append, List.length_cons, List.length_nil, length_bars row hrow,
      ih hrest (y + 1), gridEventCount, List.map_cons, List.sum_cons]
    omega

/-- The bar group of a pattern is its bars between two events (R147). -/
theorem length_patternGroup (kind label pattern n : Nat) (hn : n ≠ 0) :
    (patternGroup kind label pattern n).length = 2 + runCount (patternBits pattern n) := by
  have hne : patternBits pattern n ≠ [] := fun h => hn (by simpa using congrArg List.length h)
  simp only [patternGroup, List.length_append, List.length_cons, List.length_nil, length_bars _ hne]
  omega

/-- PDF_ROWS writes the events of a row that R151 counts. -/
theorem length_pdfRowEvents (start stop : Nat) (row : List (Nat × Nat)) :
    (pdfRowEvents start stop row).length = pdfRowCount start stop row := by
  simp only [pdfRowEvents, pdfRowCount, List.length_append, List.length_cons, List.length_nil, List.length_flatMap,
    length_patternGroup _ _ _ 17 (by decide), length_patternGroup _ _ _ 18 (by decide)]
  omega

theorem length_alternateBars (black : Bool) (widths : List Nat) :
    (alternateBars black widths).length = widths.length := by
  induction widths generalizing black with
  | nil => rfl
  | cons w widths ih => simp [alternateBars, ih]

/-- BAR_WALK writes one event for each element of an entry, and two around them (R154). -/
theorem length_entryGroup (kind : Nat) (black1 : Bool) (q : Nat × Nat) :
    (entryGroup kind black1 q).length = 2 + entryCount q.2 := by
  simp only [entryGroup, entryWidths, List.length_append, List.length_cons, List.length_nil, length_alternateBars,
    List.length_map, List.length_range]
  omega

/-! ## Event plans -/

theorem yields_gridEmitPlan (selA : Bool) (s : State) :
    Yields s (gridEmitPlan selA s) (fun plan => plan.events.length = plan.count) := by
  refine yields_bind (yields_require nofun) fun _ hgrid => ?_
  obtain ⟨hr, hc⟩ := (Bool.and_eq_true _ _).mp hgrid
  obtain ⟨hr1, hr256⟩ := inGrid_le hr
  obtain ⟨hc1, hc256⟩ := inGrid_le hc
  have hplan (name : RamName) (g : Ram Cell) (hg : GridOf s name g) :
      Yields s (do let m ← readRows name g (arg2N s) 0 (arg1N s)
                   .ok { count := gridEventCount m, events := gridEvents 0 m : EventPlan })
        (fun plan => plan.events.length = plan.count) := by
    refine yields_bind (yields_readRows hg hc256 _ _ (by omega)) fun rows hrows => yields_ok ?_
    refine length_gridEvents rows (fun row hrow => ?_) 0
    exact List.ne_nil_of_length_pos (by rw [hrows row hrow]; omega)
  exact yields_ite (hplan .ga s.ga (.inl ⟨rfl, rfl⟩)) (hplan .gb s.gb (.inr ⟨rfl, rfl⟩))

theorem yields_pdfRowsPlan (s : State) :
    Yields s (pdfRowsPlan s) (fun plan => plan.events.length = plan.count) := by
  refine yields_bind (yields_require nofun) fun _ hgeo => yields_bind (yields_require nofun) fun _ hlevel =>
    yields_bind (yields_require nofun) fun _ hlen => ?_
  simp only [decide_eq_true_eq] at hgeo hlevel hlen
  obtain ⟨-, hr, -, hc⟩ := hgeo
  have hdepth : 0 + lenN s ≤ Config.cwDepth := by
    have : arg1N s * arg2N s ≤ Config.pdfRowsMax * Config.pdfColsMax := Nat.mul_le_mul hr hc
    simp only [Config.pdfRowsMax, Config.pdfColsMax, Config.cwDepth] at *; omega
  refine yields_bind (yields_readRanged hdepth) fun data hdata => ?_
  refine yields_bind (yields_readRowPatterns hr hc hlevel hdata.2 _ 0 (by omega)) fun rows _ => yields_ok ?_
  simp only [List.length_flatMap, length_pdfRowEvents]

theorem yields_barWalkPlan (black1 : Bool) (kind : BitVec 4) (s : State) :
    Yields s (barWalkPlan black1 kind s) (fun plan => plan.events.length = plan.count) := by
  refine yields_bind (yields_require nofun) fun _ hlen => ?_
  refine yields_bind (yields_readRanged (by simpa using hlen)) fun xs hxs => ?_
  have hindex : ∀ x ∈ xs, x < Config.bartabDepth := fun x hx => by
    have := hxs.2 x hx
    simp only [Config.bartabDepth] at *; omega
  refine yields_bind (yields_readBarEntries xs hindex) fun entries _ => yields_ok ?_
  simp only [List.length_flatMap, length_entryGroup]

/-! ## Every command ends in one of the ways of `Ends` -/

/-- `t` is `s` after the writes and the completion of command `i`. -/
def Completed (i : Instr) (s t : State) : Prop := ∃ u r0 r1, Writes i s u ∧ t = complete r0 r1 u

theorem completed {i : Instr} {s u : State} (r0 r1 : Nat) (hu : Writes i s u) : Completed i s (complete r0 r1 u) :=
  ⟨u, r0, r1, hu, rfl⟩

theorem ends_of_fault {i : Instr} {s : State} {f : Fault} (hf : HaltOk s (.fault f)) : Ends i s (.fault f) := by
  cases f with
  | unwritten name idx => exact .unwritten name idx hf.1 hf.2
  | romNotBuilt => exact .noTables hf

theorem ends_finish {i : Instr} {s : State} {w : Work State} (hw : Yields s w (Completed i s)) :
    Ends i s (finish s w) := by
  cases w with
  | ok t =>
    obtain ⟨u, r0, r1, hu, rfl⟩ := hw
    exact .completes u r0 r1 hu
  | error h =>
    cases h with
    | error code r0 r1 => exact .errs code r0 r1 hw
    | fault f => exact ends_of_fault hw

/-- The end of a command that only reports a value. -/
theorem yields_complete {i : Instr} {s : State} {r0 r1 : Nat} (hi : Writes i s s) :
    Yields s (.ok (complete r0 r1 s)) (Completed i s) := yields_ok (completed r0 r1 hi)

/-- The commands that emit events write what fits below EV_DEPTH (R92, R95). -/
theorem yields_emit {i : Instr} {s : State} {plan : EventPlan} (hplan : plan.events.length = plan.count)
    (hi : ∀ u, (∃ evs : List Word, s.evWptr.toNat + evs.length ≤ Config.evDepth ∧
      u = { s with
        ev := s.ev.writeBlock s.evWptr.toNat evs
        evWptr := BitVec.ofNat 14 (s.evWptr.toNat + evs.length) }) → Writes i s u) :
    Yields s (emit s plan) (Completed i s) := by
  refine yields_bind (yields_require nofun) fun _ hfit => yields_ok (completed _ _ (hi _ ⟨plan.events, ?_, ?_⟩))
  · rw [hplan]; exact of_decide_eq_true hfit
  · rw [hplan]

theorem execRsEcc200_ends (s : State) : Ends .rsEcc200 s (execRsEcc200 s) := by
  refine ends_finish (yields_bind (yields_require nofun) fun _ hshape => yields_bind (yields_require nofun) fun _ hlen => ?_)
  simp only [decide_eq_true_eq] at hlen
  refine yields_bind (yields_readRanged (by omega)) fun xs _ => yields_bind yields_readTables fun t _ => ?_
  refine yields_ok (completed _ _ ⟨_, ?_, rfl⟩)
  have hdiv : arg1N s / arg2N s * arg2N s ≤ arg1N s := Nat.div_mul_le_self ..
  rw [List.length_map, length_eccArea]
  omega

theorem execPdfEcc_ends (s : State) : Ends .pdfEcc s (execPdfEcc s) := by
  refine ends_finish (yields_bind (yields_require nofun) fun _ _ => yields_bind (yields_require nofun) fun _ hlen => ?_)
  simp only [decide_eq_true_eq] at hlen
  have hread : 0 + lenN s ≤ Config.cwDepth := by rw [Nat.zero_add]; exact Nat.le_of_add_right_le hlen
  refine yields_bind (yields_readRanged hread) fun xs _ => yields_ok (completed _ _ ⟨_, ?_, rfl⟩)
  have := length_pdfEcc_le (arg1N s) xs
  rw [List.length_map]
  omega

theorem execCkMod10_ends (verify : Bool) (s : State) : Ends (.ckMod10 verify) s (execCkMod10 verify s) :=
  ends_finish (yields_bind yields_checkLength fun _ hlen => yields_bind (yields_readRanged (by omega)) fun _ _ =>
    yields_bind yields_checkSupplied fun _ _ => yields_complete rfl)

theorem execCkMod103_ends (verify : Bool) (s : State) : Ends (.ckMod103 verify) s (execCkMod103 verify s) :=
  ends_finish (yields_bind yields_checkLength fun _ hlen => yields_bind (yields_readRanged (by omega)) fun _ _ =>
    yields_bind yields_checkSupplied fun _ _ => yields_complete rfl)

theorem execCkMod6_ends (verify : Bool) (s : State) : Ends (.ckMod6 verify) s (execCkMod6 verify s) :=
  ends_finish (yields_bind yields_checkLength fun _ hlen => yields_bind (yields_readRanged (by omega)) fun _ _ =>
    yields_bind yields_checkSupplied fun _ _ => yields_complete rfl)

theorem execCkFcs_ends (verify : Bool) (s : State) : Ends (.ckFcs verify) s (execCkFcs verify s) := by
  have hsupplied : Config.fcsBytes + flagN verify ≤ Config.cwDepth := by cases verify <;> decide
  exact ends_finish (yields_bind (yields_require nofun) fun _ _ =>
    yields_bind (yields_readRanged (by decide)) fun _ _ => yields_bind (yields_readRanged hsupplied) fun _ _ =>
    yields_bind yields_checkSupplied fun _ _ => yields_complete rfl)

theorem execDmPlace_ends (s : State) : Ends .dmPlace s (execDmPlace s) := by
  unfold execDmPlace
  have hoperands : Yields s (placeOperands s) _ := yields_placeOperands
  cases hdata : placeOperands s with
  | error h =>
    rw [hdata] at hoperands
    exact ends_finish (w := .error h) hoperands
  | ok data =>
    rw [hdata] at hoperands
    obtain ⟨hrows, hcols⟩ := hoperands
    have hplacement : Yields s (placement (lenN s) (arg1N s) (arg2N s)) _ := yields_placement
    cases hplaced : placement (lenN s) (arg1N s) (arg2N s) with
    | ok p => exact .completes _ _ _ ⟨arg1N s, arg2N s, _, hrows, hcols, rfl⟩
    | error h =>
      rw [hplaced] at hplacement
      cases h with
      | error code r0 r1 => exact .placementErrs code r0 r1 _ _ hplacement rfl hrows hcols
      | fault f => exact ends_of_fault hplacement

/-- DM_FRAME's geometry test keeps the symbol and so the mapping matrix inside the grid (R138). -/
theorem frameGeometryOk_le {h w rv rh : Nat} (hok : frameGeometryOk h w rv rh = true) :
    rv * (h + 2) ≤ Config.gridDim ∧ rh * (w + 2) ≤ Config.gridDim := by
  simp only [frameGeometryOk, Bool.not_eq_true', Bool.or_eq_false_iff, decide_eq_false_iff_not, not_lt] at hok
  obtain ⟨⟨-, hrows⟩, hcols⟩ := hok
  exact ⟨hrows, hcols⟩

theorem execDmFrame_ends (s : State) : Ends .dmFrame s (execDmFrame s) := by
  refine ends_finish (yields_bind (yields_require nofun) fun _ hok => ?_)
  obtain ⟨hrows, hcols⟩ := frameGeometryOk_le hok
  have hread : Yields s (readRows .ga s.ga (arg3High s * arg2N s) 0 (arg3Low s * arg1N s)) _ :=
    yields_readRows (.inl ⟨rfl, rfl⟩) (by rw [Nat.mul_add] at hcols; omega) _ _ (by rw [Nat.mul_add] at hrows; omega)
  exact yields_bind hread fun m _ => yields_ok (completed _ _ ⟨_, _, _, hrows, hcols, rfl⟩)

theorem execGridEmit_ends (selA : Bool) (s : State) : Ends (.gridEmit selA) s (execGridEmit selA s) :=
  ends_finish (yields_bind (yields_gridEmitPlan selA s) fun _ hplan => yields_emit hplan fun _ h => h)

theorem execPdfRows_ends (s : State) : Ends .pdfRows s (execPdfRows s) :=
  ends_finish (yields_bind (yields_pdfRowsPlan s) fun _ hplan => yields_emit hplan fun _ h => h)

theorem execBarWalk_ends (black1 : Bool) (kind : BitVec 4) (s : State) :
    Ends (.barWalk black1 kind) s (execBarWalk black1 kind s) := by
  unfold execBarWalk
  split
  · exact ends_finish (yields_bind (yields_barWalkPlan black1 kind s) fun _ hplan => yields_emit hplan fun _ h => h)
  · exact .errs _ _ _ nofun

/-- Every command ends in one of the ways of `Ends`. -/
theorem exec_ends (i : Instr) (s : State) : Ends i s (exec i s) := by
  cases i with
  | nop => exact .completes s 0 0 rfl
  | rsEcc200 => exact execRsEcc200_ends s
  | pdfEcc => exact execPdfEcc_ends s
  | ckMod10 verify => exact execCkMod10_ends verify s
  | ckMod103 verify => exact execCkMod103_ends verify s
  | ckMod6 verify => exact execCkMod6_ends verify s
  | ckFcs verify => exact execCkFcs_ends verify s
  | dmPlace => exact execDmPlace_ends s
  | dmFrame => exact execDmFrame_ends s
  | gridEmit selA => exact execGridEmit_ends selA s
  | pdfRows => exact execPdfRows_ends s
  | barWalk black1 kind => exact execBarWalk_ends black1 kind s

end Sys2Proof.Proofs

end

section

/-! PROOF. What a command may change, the invariant over every step, and where a step can stop. -/

namespace Sys2Proof.Proofs

open Sys2Proof Sys2Proof.Machine Sys2Proof.Claims

/-! ## What a command may change -/

/-- `t` differs from `s` in no input of a command and, of the RAMs and EV_WPTR, in the output of command `i` alone (R33, R39
to R41). -/
def ChangesOnlyOutputsOf (i : Instr) (s t : State) : Prop :=
  SameInputs s t ∧
  (i ≠ .rsEcc200 → i ≠ .pdfEcc → t.cw = s.cw) ∧
  (i ≠ .dmPlace → t.ga = s.ga ∧ t.draws = s.draws) ∧
  (i ≠ .dmFrame → t.gb = s.gb) ∧
  ((∀ a, i ≠ .gridEmit a) → i ≠ .pdfRows → (∀ b k, i ≠ .barWalk b k) → t.ev = s.ev ∧ t.evWptr = s.evWptr)

/-- No change at all is within every command's outputs. -/
theorem changesOnlyOutputsOf_refl (i : Instr) (s : State) : ChangesOnlyOutputsOf i s s := by
  simp [ChangesOnlyOutputsOf, SameInputs]

/-- What a command writes before it completes is its output; its flags are still those of the issue. -/
theorem writes_frame {i : Instr} {s u : State} (hu : Writes i s u) :
    ChangesOnlyOutputsOf i s u ∧ u.done = s.done ∧ u.err = s.err := by
  cases i with
  | nop | ckMod10 _ | ckMod103 _ | ckMod6 _ | ckFcs _ =>
    obtain rfl : u = s := hu
    exact ⟨changesOnlyOutputsOf_refl _ _, rfl, rfl⟩
  | rsEcc200 | pdfEcc =>
    obtain ⟨vs, -, rfl⟩ := hu
    simp [ChangesOnlyOutputsOf, SameInputs]
  | dmPlace | dmFrame =>
    obtain ⟨rows, cols, f, -, -, rfl⟩ := hu
    simp [ChangesOnlyOutputsOf, SameInputs]
  | gridEmit _ | pdfRows | barWalk _ _ =>
    obtain ⟨evs, -, rfl⟩ := hu
    simp [ChangesOnlyOutputsOf, SameInputs]

/-- Settles O55: the three ends of a command that goes on, of which the completion has the command's own writes. -/
theorem commandsChangeOnlyTheirOutputs : Obligations.CommandsChangeOnlyTheirOutputs := by
  intro i s t h
  have hends := exec_ends i s
  rw [h] at hends
  cases hends with
  | completes u r0 r1 hu =>
    obtain ⟨⟨hinputs, hcw, hga, hgb, hev⟩, -, herr⟩ := writes_frame hu
    exact ⟨rfl, hinputs, hcw, hga, hgb, hev, .inl ⟨rfl, rfl, herr⟩⟩
  | errs code r0 r1 hc =>
    obtain ⟨hinputs, hcw, hga, hgb, hev⟩ := changesOnlyOutputsOf_refl i s
    exact ⟨rfl, hinputs, hcw, hga, hgb, hev, .inr ⟨hc, rfl, rfl⟩⟩
  | placementErrs code r0 r1 rows cols hc hi =>
    obtain ⟨hinputs, hcw, -, hgb, hev⟩ := changesOnlyOutputsOf_refl i s
    exact ⟨rfl, hinputs, hcw, fun hne => absurd hi hne, hgb, hev, .inr ⟨hc, rfl, rfl⟩⟩

/-! ## The invariant -/

/-- A command's writes keep the canonical form of the RAMs. -/
theorem writes_memory_wf {i : Instr} {s u : State} (hu : Writes i s u) (hs : Memory.wf s = true) :
    Memory.wf u = true := by
  rw [memory_wf_iff] at hs ⊢
  obtain ⟨hcw, hga, hgb, hev, hbt, hpt⟩ := hs
  cases i with
  | nop | ckMod10 _ | ckMod103 _ | ckMod6 _ | ckFcs _ =>
    obtain rfl : u = s := hu
    exact ⟨hcw, hga, hgb, hev, hbt, hpt⟩
  | rsEcc200 | pdfEcc =>
    obtain ⟨vs, hlen, rfl⟩ := hu
    exact ⟨Ram.form_writeBlock _ _ _ _ hcw (.inr hlen), hga, hgb, hev, hbt, hpt⟩
  | dmPlace =>
    obtain ⟨rows, cols, f, hrows, hcols, rfl⟩ := hu
    exact ⟨hcw, Ram.form_writeRect _ _ _ _ hga hrows hcols, hgb, hev, hbt, hpt⟩
  | dmFrame =>
    obtain ⟨rows, cols, f, hrows, hcols, rfl⟩ := hu
    exact ⟨hcw, hga, Ram.form_writeRect _ _ _ _ hgb hrows hcols, hev, hbt, hpt⟩
  | gridEmit _ | pdfRows | barWalk _ _ =>
    obtain ⟨evs, hlen, rfl⟩ := hu
    exact ⟨hcw, hga, hgb, Ram.form_writeBlock _ _ _ _ hev (.inr hlen), hbt, hpt⟩

/-- The lost region of a failed placement keeps the canonical form of GA. -/
theorem scrambleGa_memory_wf {s : State} {rows cols : Nat} (hrows : rows ≤ Config.gridDim)
    (hcols : cols ≤ Config.gridDim) (hs : Memory.wf s = true) : Memory.wf (scrambleGa s rows cols) = true := by
  rw [memory_wf_iff] at hs ⊢
  obtain ⟨hcw, hga, hrest⟩ := hs
  exact ⟨hcw, Ram.form_writeRect _ _ _ _ hga hrows hcols, hrest⟩

/-- Every command keeps the canonical form of the RAMs. -/
theorem exec_memory_wf {i : Instr} {s t : State} (h : exec i s = .next t) (hs : Memory.wf s = true) :
    Memory.wf t = true := by
  have hends := exec_ends i s
  rw [h] at hends
  cases hends with
  | completes u r0 r1 hu => exact (writes_memory_wf hu hs : Memory.wf u = true)
  | errs code r0 r1 hc => exact hs
  | placementErrs code r0 r1 rows cols hc hi hrows hcols =>
    exact (scrambleGa_memory_wf hrows hcols hs : Memory.wf (scrambleGa s rows cols) = true)

/-- In mode IDLE the invariant asks for the RAMs' form, the tables, and flags that agree with ERRCODE. -/
theorem inv_of_idle {s : State} (hidle : s.engine = .idle) (hmem : Memory.wf s = true) (hgf : s.gf = some gfTables)
    (hcode : flagsMatchCode s) : s.Inv :=
  ⟨hmem, by simp [romsFollowMode, hidle, hgf], fun hne => absurd hidle hne, hcode, by simp [lastopFollowsMode, hidle]⟩

/-- Outside mode INIT the tables are built. -/
theorem gf_of_inv {s : State} (hs : s.Inv) (hne : s.engine ≠ .init) : s.gf = some gfTables := by
  obtain ⟨-, hroms, -⟩ := hs
  simpa [romsFollowMode, hne] using hroms

/-- The end of a running command meets the invariant. -/
theorem exec_inv {i : Instr} {s t : State} {w : Word} (hs : s.Inv) (hbusy : s.engine = .busy w)
    (h : exec i s = .next t) : t.Inv := by
  obtain ⟨hidle, hinputs, -, -, -, -, hend⟩ := commandsChangeOnlyTheirOutputs i s t h
  have hgf : t.gf = some gfTables := by
    obtain ⟨-, -, -, -, -, -, -, -, -, -, -, -, -, hgf, -⟩ := hinputs
    rw [hgf]
    exact gf_of_inv hs (by rw [hbusy]; nofun)
  obtain ⟨hmem, -, hquiet, -⟩ := hs
  obtain ⟨hdone, herr⟩ := hquiet (by rw [hbusy]; nofun)
  refine inv_of_idle hidle (exec_memory_wf h hmem) hgf ?_
  rcases hend with ⟨hcode, -, herr'⟩ | ⟨hcode, -, hdone'⟩
  · exact ⟨fun _ => hcode, fun hset => by simp [herr', herr] at hset⟩
  · exact ⟨fun hset => by simp [hdone', hdone] at hset, fun _ => hcode⟩

/-- The end of a word that is no command meets the invariant. -/
theorem badCommand_inv {s : State} {w : Word} (hs : s.Inv) (hbusy : s.engine = .busy w) : (badCommand w s).Inv := by
  have hgf := gf_of_inv hs (by rw [hbusy]; nofun)
  obtain ⟨hmem, -, hquiet, -⟩ := hs
  have hdone : (badCommand w s).done = false := (hquiet (by rw [hbusy]; nofun)).1
  exact inv_of_idle rfl hmem hgf ⟨fun hset => by simp [hdone] at hset, fun _ => nofun⟩

/-- The engine's move keeps the invariant. -/
theorem engineStep_inv {s t : State} (hs : s.Inv) (h : engineStep s = .next t) : t.Inv := by
  unfold engineStep at h
  split at h
  · cases h
    obtain ⟨hmem, -, -, hcode, -⟩ := hs
    exact inv_of_idle rfl hmem rfl hcode
  · cases h; exact hs
  · rename_i w hbusy
    split at h
    · exact exec_inv hs hbusy h
    · cases h; exact badCommand_inv hs hbusy

/-- Settles O57. -/
theorem resetMeetsInvariant : Obligations.ResetMeetsInvariant :=
  ⟨reset_memory_wf, rfl, fun _ => ⟨rfl, rfl⟩, ⟨nofun, nofun⟩, rfl, rfl⟩

/-- The soft reset keeps the invariant: the RAMs keep their form, all else is as at the power-on reset. -/
theorem softReset_inv {s : State} (hs : s.Inv) : (softReset s).Inv := by
  obtain ⟨-, hrest⟩ := resetMeetsInvariant
  obtain ⟨hmem, -⟩ := hs
  exact ⟨softReset_memory_wf s hmem, hrest⟩

/-- The issue of a word in mode IDLE keeps the invariant. -/
theorem issue_inv {s : State} {w : Word} (hs : s.Inv) (hidle : s.engine = .idle) : (issue w s).Inv := by
  have hgf := gf_of_inv hs (by rw [hidle]; nofun)
  obtain ⟨hmem, -⟩ := hs
  exact ⟨hmem, by simpa [romsFollowMode] using hgf, fun _ => ⟨rfl, rfl⟩, ⟨nofun, nofun⟩, rfl⟩

/-- A STATUS write keeps the invariant: it only lowers flags. -/
theorem clearStatus_inv {s : State} {w : Word} (hs : s.Inv) : (clearStatus w s).Inv := by
  obtain ⟨hmem, hroms, hquiet, ⟨hdone, herr⟩, hlastop⟩ := hs
  refine ⟨hmem, hroms, fun hne => ?_, ⟨fun h => hdone ?_, fun h => herr ?_⟩, hlastop⟩
  · obtain ⟨hd, he⟩ := hquiet hne
    simp [clearStatus, hd, he]
  · exact ((Bool.and_eq_true _ _).mp h).1
  · exact ((Bool.and_eq_true _ _).mp h).1

theorem busy_eq_false_iff (s : State) : busy s = false ↔ s.engine = .idle := by
  unfold busy
  cases s.engine <;> simp

/-- An accepted write to a register keeps the invariant; CMD is accepted in mode IDLE alone. -/
theorem writeReg_inv {s : State} {wdata : Word} {r : Reg} (hs : s.Inv) (hcmd : r = .cmd → s.engine = .idle) :
    (writeReg s wdata r).Inv := by
  cases r
  case ctrl =>
    show (writeCtrl s wdata).Inv
    unfold writeCtrl
    split
    · exact softReset_inv hs
    · exact hs
  case status => exact clearStatus_inv hs
  case cmd => exact issue_inv hs (hcmd rfl)
  all_goals exact hs

/-- Every Write on the host port keeps the invariant. -/
theorem portWrite_inv {s : State} (addr : HostAddr) (size : Nat) (wdata : Word) (hs : s.Inv) :
    (portWrite s addr size wdata).Inv := by
  have hmem := portWrite_memory_wf s addr size wdata hs.1
  rcases portWrite_cases s addr size wdata with ⟨-, heq⟩ | ⟨t, ht, heq⟩
  · rw [heq]; exact hs
  · rw [heq] at hmem ⊢
    obtain ⟨-, -, -, hopen⟩ := (accepted_eq_some s addr size t).1 ht
    cases t with
    | reg r =>
      refine writeReg_inv hs fun hr => (busy_eq_false_iff s).1 (hopen.resolve_right ?_)
      rw [hr]; nofun
    | _ => exact ⟨hmem, hs.2⟩

/-- A Read on the host port keeps the invariant. -/
theorem portRead_inv {s : State} (addr : HostAddr) (size : Nat) (hs : s.Inv) : (portRead s addr size).Inv := by
  rw [portRead_eq]; exact hs

/-- A poll keeps the invariant. -/
theorem portPoll_inv {s : State} (hs : s.Inv) : (portPoll s).Inv := by
  have hread : (portRead s statusAddr 4).Inv := portRead_inv _ _ hs
  unfold portPoll
  dsimp only
  split
  · exact hread
  · exact hread

/-- Settles O58, by the move the step plays. -/
theorem stepKeepsInvariant : Obligations.StepKeepsInvariant := by
  intro s t hs h
  unfold step at h
  split at h
  · exact engineStep_inv hs h
  · rename_i rest hturns
    exact engineStep_inv (show State.Inv { s with turns := rest } from hs) h
  · cases h; exact portRead_inv _ _ hs
  · cases h; exact portWrite_inv _ _ _ hs
  · cases h; exact portPoll_inv hs
  · cases h; exact resetMeetsInvariant

/-! ## Where a step can stop -/

/-- The engine's move goes on, or it is the command it holds. -/
theorem engineStep_next_or_exec (s : State) :
    (∃ t, engineStep s = .next t) ∨ ∃ w i, s.engine = .busy w ∧ engineStep s = exec i s := by
  unfold engineStep
  split
  · exact .inl ⟨_, rfl⟩
  · exact .inl ⟨_, rfl⟩
  · rename_i w hbusy
    split
    · exact .inr ⟨w, _, hbusy, rfl⟩
    · exact .inl ⟨_, rfl⟩

/-- A step goes on, or it is the engine's move. -/
theorem step_next_or_engineStep (s : State) :
    (∃ t, step s = .next t) ∨
      ((s.turns = [] ∨ ∃ rest, s.turns = .engine :: rest) ∧
        step s = engineStep { s with turns := s.turns.tail }) := by
  cases hturns : s.turns with
  | nil => exact .inr ⟨.inl rfl, by cases s; cases hturns; rfl⟩
  | cons move rest =>
    cases move with
    | engine => exact .inr ⟨.inr ⟨rest, rfl⟩, by simp only [step, hturns, List.tail_cons]⟩
    | read _ _ | write _ _ _ | poll | powerOn => exact .inl ⟨_, by simp only [step, hturns]; rfl⟩

/-- A step goes on, or it is the engine's move and runs the command the engine holds. -/
theorem step_next_or_exec (s : State) :
    (∃ t, step s = .next t) ∨
      ∃ w i, s.engine = .busy w ∧ (s.turns = [] ∨ ∃ rest, s.turns = .engine :: rest) ∧
        step s = exec i { s with turns := s.turns.tail } := by
  rcases step_next_or_engineStep s with hnext | ⟨hturns, hstep⟩
  · exact .inl hnext
  · rw [hstep]
    rcases engineStep_next_or_exec { s with turns := s.turns.tail } with hnext | ⟨w, i, hbusy, hexec⟩
    · exact .inl hnext
    · exact .inr ⟨w, i, hbusy, hturns, hexec⟩

/-- No command is refused. -/
theorem exec_ne_refused (i : Instr) (s : State) (r : Refusal) : exec i s ≠ .refused r := by
  intro h
  have hends := exec_ends i s
  rw [h] at hends
  cases hends

/-- No step is refused (R187). -/
theorem step_ne_refused (s : State) (r : Refusal) : step s ≠ .refused r := by
  rcases step_next_or_exec s with ⟨t, hnext⟩ | ⟨w, i, -, -, hexec⟩
  · rw [hnext]; nofun
  · rw [hexec]; exact exec_ne_refused i _ r

/-- With the tables built, a command faults only at an entry it may read and nothing has written (R49). -/
theorem exec_fault {i : Instr} {s : State} {f : Fault} (hgf : s.gf ≠ none) (h : exec i s = .fault f) :
    ∃ name idx, f = .unwritten name idx ∧ entryOf s name idx = none ∧ ReadByCommands name idx := by
  have hends := exec_ends i s
  rw [h] at hends
  cases hends with
  | unwritten name idx hread hidx => exact ⟨name, idx, rfl, hread, hidx⟩
  | noTables hnone => exact absurd hnone hgf

/-- A step of the invariant's states faults only in the engine's move, at an entry that nothing has written (R49, R187). -/
theorem step_fault {s : State} {f : Fault} (hs : s.Inv) (h : step s = .fault f) :
    ∃ w name idx, s.engine = .busy w ∧ (s.turns = [] ∨ ∃ rest, s.turns = .engine :: rest) ∧
      f = .unwritten name idx ∧ entryOf s name idx = none ∧ ReadByCommands name idx := by
  rcases step_next_or_exec s with ⟨t, hnext⟩ | ⟨w, i, hbusy, hturns, hexec⟩
  · rw [hnext] at h; cases h
  · have hgf : s.gf ≠ none := by rw [gf_of_inv hs (by rw [hbusy]; nofun)]; nofun
    obtain ⟨name, idx, hf, hread, hidx⟩ := exec_fault (s := { s with turns := s.turns.tail }) hgf (hexec ▸ h)
    exact ⟨w, name, idx, hbusy, hturns, hf, hread, hidx⟩

/-- A fully written machine has no unwritten entry that a command may read. -/
theorem entryOf_ne_none_of_fullyWritten {s : State} (hs : fullyWritten s) {name : RamName} {idx : Nat}
    (hidx : ReadByCommands name idx) : entryOf s name idx ≠ none := by
  obtain ⟨hcw, hga, hgb, hbt, hpt⟩ := hs
  cases name with
  | cw => simpa [entryOf, ← Option.isSome_iff_ne_none] using hcw idx hidx
  | ga => simpa [entryOf, ← Option.isSome_iff_ne_none] using hga idx hidx
  | gb => simpa [entryOf, ← Option.isSome_iff_ne_none] using hgb idx hidx
  | ev => exact hidx.elim
  | bt => simpa [entryOf, ← Option.isSome_iff_ne_none] using hbt idx hidx
  | pt =>
    obtain ⟨cl, v, hcl, hv, rfl⟩ := hidx
    simpa [entryOf, ← Option.isSome_iff_ne_none] using hpt cl v hcl hv

/-- Settles O60: a step that faults names an unwritten entry, and none is refused. -/
theorem fullyWrittenMachineGoesOn : Obligations.FullyWrittenMachineGoesOn := by
  intro s hs hfull
  cases h : step s with
  | next t => exact ⟨t, rfl⟩
  | fault f =>
    obtain ⟨-, name, idx, -, -, -, hread, hidx⟩ := step_fault hs h
    exact absurd hread (entryOf_ne_none_of_fullyWritten hfull hidx)
  | refused r => exact absurd h (step_ne_refused s r)

end Sys2Proof.Proofs

end

section

/-! PROOF. The registers through the host port: what a Read and a Write of a register do, and IRQ. -/

namespace Sys2Proof.Proofs

open Sys2Proof Sys2Proof.Machine Sys2Proof.Claims

/-! ## Accepted transactions -/

/-- The address is aligned and names the target (R51, R52). -/
abbrev Names (addr : HostAddr) (t : Target) : Prop := addr.toNat % 4 = 0 ∧ target addr.toNat = some t

/-- The target answers in the engine's mode (R57 c). -/
def Answers (s : State) (t : Target) : Prop := s.engine = .idle ∨ alwaysOpen t = true

theorem accepted_of_names {s : State} {addr : HostAddr} {t : Target} (hname : Names addr t) (hans : Answers s t) :
    accepted s addr 4 = some t :=
  (accepted_eq_some s addr 4 t).2 ⟨rfl, hname.1, hname.2, hans.imp_left (busy_eq_false_iff s).2⟩

theorem portRead_of_names {s : State} {addr : HostAddr} {t : Target} (hname : Names addr t) (hans : Answers s t) :
    portRead s addr 4 = { s with reply := .read .okay (readTarget s t) } := by
  rw [portRead_eq, accepted_of_names hname hans]

theorem portWrite_of_names {s : State} {addr : HostAddr} {t : Target} (wdata : Word) (hname : Names addr t)
    (hans : Answers s t) : portWrite s addr 4 wdata = { writeTarget s wdata t with reply := .write .okay } := by
  unfold portWrite
  rw [accepted_of_names hname hans]

/-- A CTRL write with bit 0 = 0 moves IRQEN alone (R20). -/
theorem writeTarget_ctrl {s : State} {wdata : Word} (hbit : wdata.getLsbD 0 = false) :
    writeTarget s wdata (.reg .ctrl) = { s with irqen := wdata.getLsbD 1 } := if_neg (by rw [hbit]; decide)

/-- An accepted write to an address that leaves the state `t`, after which the address reads as `v`. -/
theorem write_then_read {s t : State} {addr : HostAddr} {x : Target} {wdata v : Word} (hname : Names addr x)
    (hans : Answers s x) (hwrite : writeTarget s wdata x = t) (hans' : Answers t x)
    (hread : readTarget { t with reply := .write .okay } x = v) :
    portWrite s addr 4 wdata = { t with reply := .write .okay } ∧
      (portRead (portWrite s addr 4 wdata) addr 4).reply = .read .okay v := by
  have hw : portWrite s addr 4 wdata = { t with reply := .write .okay } := by
    rw [portWrite_of_names wdata hname hans, hwrite]
  have hans' : Answers { t with reply := .write .okay } x := hans'
  exact ⟨hw, by rw [hw, portRead_of_names hname hans', hread]⟩

/-- An address whose writes are ignored and that reads as `v` (R32). -/
theorem write_ignored_read {s : State} {addr : HostAddr} {x : Target} {wdata v : Word} (hname : Names addr x)
    (hans : Answers s x) (hwrite : writeTarget s wdata x = s) (hread : readTarget s x = v) :
    portWrite s addr 4 wdata = { s with reply := .write .okay } ∧ (portRead s addr 4).reply = .read .okay v := by
  refine ⟨?_, ?_⟩
  · rw [portWrite_of_names wdata hname hans, hwrite]
  · rw [portRead_of_names hname hans, hread]

/-- The words of the REG window beyond the eighteen registers are holes (R52). -/
theorem names_regHole {a : Nat} (hlo : 0x048 ≤ a) (hhi : a < 0x400) (hal : a % 4 = 0) :
    Names (BitVec.ofNat 20 a) .regHole := by
  have ha : (BitVec.ofNat 20 a).toNat = a := Nat.mod_eq_of_lt (by omega)
  have hlist : regList[a / 4]? = none :=
    List.getElem?_eq_none (by simp only [regList, List.length_cons, List.length_nil]; omega)
  refine ⟨ha.symm ▸ hal, ?_⟩
  have hwin : inWindow a 0 256 = true := by simp only [inWindow, Bool.and_eq_true, decide_eq_true_eq]; omega
  simp only [ha, target, hwin, if_true, regTarget, hlist]

/-! ## The bits of the registers -/

/-- A register of n bits holds the low n bits of the word written and reads them back (R20 to R31). -/
theorem setWidth_setWidth_eq_and (w : Word) {n : Nat} (hn : n ≤ 32) :
    (w.setWidth n).setWidth 32 = w &&& BitVec.ofNat 32 (2 ^ n - 1) := by
  have hpow : 2 ^ n ≤ 2 ^ 32 := Nat.pow_le_pow_right (by decide) hn
  have hmask : (2 ^ n - 1) % 2 ^ 32 = 2 ^ n - 1 := Nat.mod_eq_of_lt (by have := Nat.two_pow_pos n; omega)
  have hlow : w.toNat % 2 ^ n % 2 ^ 32 = w.toNat % 2 ^ n :=
    Nat.mod_eq_of_lt (Nat.lt_of_lt_of_le (Nat.mod_lt _ (Nat.two_pow_pos n)) hpow)
  apply BitVec.eq_of_toNat_eq
  rw [BitVec.toNat_setWidth, BitVec.toNat_setWidth, hlow, BitVec.toNat_and, BitVec.toNat_ofNat, hmask,
    Nat.and_two_pow_sub_one_eq_mod]

/-- A concatenation as a number. -/
theorem toNat_append_eq {n m : Nat} (x : BitVec n) (y : BitVec m) :
    (x ++ y).toNat = x.toNat * 2 ^ m + y.toNat := by
  rw [BitVec.toNat_append, ← Nat.shiftLeft_add_eq_or_of_lt y.isLt, Nat.shiftLeft_eq]

/-- CFG's two bits read back (R30). -/
theorem cfg_bits (w : Word) :
    0#30 ++ BitVec.ofBool (w.getLsbD 1) ++ BitVec.ofBool (w.getLsbD 0) = w &&& 0x3#32 := by
  apply BitVec.eq_of_toNat_eq
  have hand : w.toNat &&& 3 = w.toNat % 4 := Nat.and_two_pow_sub_one_eq_mod w.toNat 2
  simp only [toNat_append_eq, BitVec.toNat_ofBool, BitVec.getLsbD, Nat.toNat_testBit, BitVec.toNat_and,
    BitVec.toNat_ofNat, Nat.reduceMod, Nat.reducePow, hand]
  omega

/-- CTRL reads back bit 1 alone (R20). -/
theorem ctrl_bits (w : Word) : 0#30 ++ BitVec.ofBool (w.getLsbD 1) ++ 0#1 = w &&& 0x2#32 := by
  apply BitVec.eq_of_toNat_eq
  have hand : w.toNat &&& 2 = w.toNat / 2 % 2 * 2 := by
    simpa only [Nat.toNat_testBit, Nat.pow_one] using Nat.and_two_pow w.toNat 1
  simp only [toNat_append_eq, BitVec.toNat_ofBool, BitVec.getLsbD, Nat.toNat_testBit, BitVec.toNat_and,
    BitVec.toNat_ofNat, Nat.reduceMod, Nat.reducePow, hand]
  omega

/-! ## The statements -/

/-- Settles O11: each register through `write_then_read` or `write_ignored_read`, with the bits it has. -/
theorem registerReadsAfterWrite : Obligations.RegisterReadsAfterWrite := by
  intro s wdata hidle
  have hans (t : State) (ht : t.engine = s.engine) (x : Target) : Answers t x := .inl (ht.trans hidle)
  refine ⟨fun a mask t hmem => ?_, fun a v hmem => ?_, fun a hlo hhi hal => ?_, ?_, fun hbit => ?_⟩
  · simp only [registerWrites, List.mem_cons, List.not_mem_nil, or_false, Prod.mk.injEq] at hmem
    rcases hmem with ⟨rfl, rfl, rfl⟩ | ⟨rfl, rfl, rfl⟩ | ⟨rfl, rfl, rfl⟩ | ⟨rfl, rfl, rfl⟩ | ⟨rfl, rfl, rfl⟩ |
      ⟨rfl, rfl, rfl⟩ | ⟨rfl, rfl, rfl⟩ | ⟨rfl, rfl, rfl⟩ | ⟨rfl, rfl, rfl⟩
    · exact write_then_read (x := .reg .len) (by decide) (hans _ rfl _) rfl (hans _ rfl _)
        (setWidth_setWidth_eq_and wdata (n := 13) (by decide))
    · exact write_then_read (x := .reg .arg1) (by decide) (hans _ rfl _) rfl (hans _ rfl _)
        BitVec.and_allOnes.symm
    · exact write_then_read (x := .reg .arg2) (by decide) (hans _ rfl _) rfl (hans _ rfl _)
        BitVec.and_allOnes.symm
    · exact write_then_read (x := .reg .arg3) (by decide) (hans _ rfl _) rfl (hans _ rfl _)
        BitVec.and_allOnes.symm
    · exact write_then_read (x := .reg .evWptr) (by decide) (hans _ rfl _) rfl (hans _ rfl _)
        (setWidth_setWidth_eq_and wdata (n := 14) (by decide))
    · exact write_then_read (x := .reg .pdfStart) (by decide) (hans _ rfl _) rfl (hans _ rfl _)
        (setWidth_setWidth_eq_and wdata (n := 17) (by decide))
    · exact write_then_read (x := .reg .pdfStop) (by decide) (hans _ rfl _) rfl (hans _ rfl _)
        (setWidth_setWidth_eq_and wdata (n := 18) (by decide))
    · exact write_then_read (x := .reg .cfg) (by decide) (hans _ rfl _) rfl (hans _ rfl _) (cfg_bits wdata)
    · exact write_then_read (x := .reg .fcsInit) (by decide) (hans _ rfl _) rfl (hans _ rfl _)
        (setWidth_setWidth_eq_and wdata (n := 11) (by decide))
  · simp only [List.mem_cons, List.not_mem_nil, or_false, Prod.mk.injEq] at hmem
    rcases hmem with ⟨rfl, rfl⟩ | ⟨rfl, rfl⟩ | ⟨rfl, rfl⟩ | ⟨rfl, rfl⟩ | ⟨rfl, rfl⟩ | ⟨rfl, rfl⟩
    · exact write_ignored_read (x := .reg .id) (by decide) (hans _ rfl _) rfl rfl
    · exact write_ignored_read (x := .reg .version) (by decide) (hans _ rfl _) rfl rfl
    · exact write_ignored_read (x := .reg .result0) (by decide) (hans _ rfl _) rfl rfl
    · exact write_ignored_read (x := .reg .result1) (by decide) (hans _ rfl _) rfl rfl
    · exact write_ignored_read (x := .reg .param0) (by decide) (hans _ rfl _) rfl rfl
    · exact write_ignored_read (x := .reg .param1) (by decide) (hans _ rfl _) rfl rfl
  · exact write_ignored_read (names_regHole hlo hhi hal) (hans _ rfl _) rfl rfl
  · exact portRead_of_names (t := .reg .cmd) (by decide) (hans _ rfl _)
  · exact write_then_read (x := .reg .ctrl) (by decide) (hans _ rfl _) (writeTarget_ctrl hbit) (hans _ rfl _)
      (ctrl_bits wdata)

/-- A flag after a write-one-to-clear by bit `b` (R22). -/
theorem and_not_eq_ite (flag b : Bool) : (flag && !b) = if b then false else flag := by cases b <;> simp

/-- Settles O12: STATUS answers in every mode, CMD in mode IDLE. -/
theorem statusWriteOneToClear : Obligations.StatusWriteOneToClear := by
  refine ⟨fun s wdata => ?_, fun s w hidle => ?_⟩
  · rw [portWrite_of_names (t := .reg .status) wdata (by decide) (.inr rfl)]
    simp only [writeTarget, writeReg, clearStatus, and_not_eq_ite]
  · rw [portWrite_of_names (t := .reg .cmd) w (by decide) (.inl hidle)]
    exact ⟨rfl, rfl⟩

/-- The model's error codes have the numbers of R161's table. -/
theorem errNumber_toNat (code : ErrCode) : (errNumber code).toNat = codeNumber code := by
  cases code <;> rfl

/-- READY and BUSY as numbers, by the engine mode (R45). -/
theorem ready_busy_toNat (s : State) :
    (ready s).toNat = (if s.engine = .init then 0 else 1) ∧ 2 * (busy s).toNat = (if s.engine = .idle then 0 else 2) := by
  unfold ready busy
  cases s.engine <;> simp

/-- Settles O13: STATUS as a sum of its fields, each at its place. -/
theorem statusFields : Obligations.StatusFields := by
  intro s
  obtain ⟨hready, hbusy⟩ := ready_busy_toNat s
  have hdone : 4 * s.done.toNat = if s.done then 4 else 0 := by cases s.done <;> rfl
  have herr : 8 * s.err.toNat = if s.err then 8 else 0 := by cases s.err <;> rfl
  refine ⟨by rw [portRead_of_names (t := .reg .status) (by decide) (.inr rfl)]; rfl, ?_⟩
  rw [← hready, ← hbusy, ← hdone, ← herr]
  simp only [statusWord, toNat_append_eq, BitVec.toNat_ofBool, BitVec.toNat_ofNat, errNumber_toNat, Nat.reduceMod,
    Nat.reducePow]
  omega

/-! ## IRQ -/

/-- Where a command ends, DONE or ERR stands (R86, R88). -/
theorem exec_next_irq {i : Instr} {s t : State} (h : exec i s = .next t) : irq t = s.irqen := by
  obtain ⟨-, ⟨hirqen, -⟩, -, -, -, -, hend⟩ := commandsChangeOnlyTheirOutputs i s t h
  rcases hend with ⟨-, hset, -⟩ | ⟨-, hset, -⟩ <;> simp [irq, hirqen, hset]

/-- In modes BUSY and INIT both flags are 0, and IRQ with them (R85, R184). -/
theorem irq_eq_false_of_inv {s : State} (hs : s.Inv) (hne : s.engine ≠ .idle) : irq s = false := by
  obtain ⟨-, -, hquiet, -⟩ := hs
  obtain ⟨hdone, herr⟩ := hquiet hne
  simp [irq, hdone, herr]

/-- Settles O14. -/
theorem irqFollowsCommandEnd : Obligations.IrqFollowsCommandEnd := by
  refine ⟨fun s w => ?_, fun s => irq_eq_false_of_inv, fun i s t => exec_next_irq, fun s => ?_, fun s wdata hbit => ?_⟩
  · simp [irq]
  · rw [statusWriteOneToClear.1]
    simp [irq]
  · rw [portWrite_of_names (t := .reg .ctrl) wdata (by decide) (.inr rfl), writeTarget_ctrl hbit]
    by_cases hflag : s.done = true ∨ s.err = true
    · rcases hflag with hset | hset <;> simp [irq, hset]
    · rw [if_neg hflag]
      obtain ⟨hdone, herr⟩ := not_or.1 hflag
      simp [irq, hdone, herr]

end Sys2Proof.Proofs

end

section

/-! PROOF. A command's first read of an unwritten entry, where every check before it passes, is the fault it stops with (R49).
The reads of a command are traversals of a list: of row numbers, columns, table indices or codewords. -/

namespace Sys2Proof.Proofs

open Sys2Proof Sys2Proof.Machine Sys2Proof.Claims

/-! ## Traversals -/

/-- A traversal stops at the first element at which its work stops. -/
theorem mapM_eq_error {α β : Type} {f : α → Work β} {l : List α} {k : Nat} {a : α} {h : Halt} (ha : l[k]? = some a)
    (hbefore : ∀ j b, j < k → l[j]? = some b → ∃ y, f b = .ok y) (hstop : f a = .error h) :
    l.mapM f = .error h := by
  induction l generalizing k with
  | nil => cases ha
  | cons b l ih =>
    rw [List.mapM_cons]
    cases k with
    | zero =>
      obtain rfl : b = a := by simpa using ha
      rw [hstop]; rfl
    | succ k =>
      obtain ⟨y, hy⟩ := hbefore 0 b (by omega) rfl
      have hrest : l.mapM f = .error h :=
        ih (by simpa using ha) fun j c hj hc => hbefore (j + 1) c (by omega) (by simpa using hc)
      rw [hy, hrest]; rfl

/-- A traversal none of whose elements stops delivers. -/
theorem mapM_ok {α β : Type} {f : α → Work β} {l : List α} (hl : ∀ b ∈ l, ∃ y, f b = .ok y) :
    ∃ ys, l.mapM f = .ok ys := by
  induction l with
  | nil => exact ⟨[], rfl⟩
  | cons b l ih =>
    obtain ⟨⟨y, hy⟩, hrest⟩ := List.forall_mem_cons.1 hl
    obtain ⟨ys, hys⟩ := ih hrest
    exact ⟨y :: ys, by rw [List.mapM_cons, hy, hys]; rfl⟩

theorem readRow_eq_mapM (name : RamName) (g : Ram Cell) (r n c : Nat) :
    readRow name g r c n = (List.range' c n).mapM (readSetCell name g r) := by
  induction n generalizing c with
  | zero => rfl
  | succ n ih => rw [List.range'_succ, List.mapM_cons, ← ih]; rfl

theorem readRows_eq_mapM (name : RamName) (g : Ram Cell) (cols n r : Nat) :
    readRows name g cols r n = (List.range' r n).mapM (fun y => readRow name g y 0 cols) := by
  induction n generalizing r with
  | zero => rfl
  | succ n ih => rw [List.range'_succ, List.mapM_cons, ← ih]; rfl

/-- One valid entry of the bar-width table (R154). -/
def readBarEntry (s : State) (x : Nat) : Work (Nat × Nat) := do
  let t ← readEntry .bt s.bt x
  require (entryValid t.toNat) .table x t.toNat
  .ok (x, t.toNat)

theorem readBarEntries_eq_mapM (s : State) (xs : List Nat) : readBarEntries s xs = xs.mapM (readBarEntry s) := by
  induction xs with
  | nil => rfl
  | cons x xs ih => rw [List.mapM_cons, ← ih]; simp only [readBarEntries, readBarEntry, bind_assoc]; rfl

/-- One valid pattern of a cluster (R150). -/
def readPattern (s : State) (cl v : Nat) : Work (Nat × Nat) := do
  let p ← readEntry .pt s.pt (ptIndex cl v)
  require (p.toNat.testBit 16 && !p.toNat.testBit 0) .table ((cl <<< 16) ||| v) p.toNat
  .ok (v, p.toNat)

theorem readPatterns_eq_mapM (s : State) (cl : Nat) (vs : List Nat) :
    readPatterns s cl vs = vs.mapM (readPattern s cl) := by
  induction vs with
  | nil => rfl
  | cons v vs ih => rw [List.mapM_cons, ← ih]; simp only [readPatterns, readPattern, bind_assoc]; rfl

theorem readRowPatterns_eq_mapM (s : State) (data : List Nat) (r c level n y : Nat) :
    readRowPatterns s data r c level y n =
      (List.range' y n).mapM (fun y => readPatterns s (y % Config.pdfClusters) (rowCodewords data r c level y)) := by
  induction n generalizing y with
  | zero => rfl
  | succ n ih => rw [List.range'_succ, List.mapM_cons, ← ih]; rfl

/-! ## The elements of CW -/

/-- Elements that are all written and in range are read. -/
theorem readRanged_ok_of_written {s : State} {limit i n : Nat}
    (hwritten : ∀ j, j < n → ∃ v, s.cw.read (i + j) = some v ∧ v.toNat ≤ limit) :
    ∃ xs, readRanged s limit i n = .ok xs := by
  cases hr : readRanged s limit i n with
  | ok xs => exact ⟨xs, rfl⟩
  | error h =>
    obtain ⟨j, hj, -, hat⟩ := (readRanged_eq_error s limit i n h).1 hr
    obtain ⟨v, hv, hle⟩ := hwritten j hj
    rcases hat with ⟨hnone, -⟩ | ⟨u, hu, hgt, -⟩
    · rw [hnone] at hv; cases hv
    · rw [hu] at hv; cases hv; omega

/-- The first unwritten element among CW[0, n) is the fault of reading them. -/
theorem readRanged_of_firstUnwritten {s : State} {limit i n : Nat} (hfirst : FirstUnwritten s limit i) (hi : i < n) :
    readRanged s limit 0 n = .error (.fault (.unwritten .cw i)) := by
  obtain ⟨hbefore, hnone⟩ := hfirst
  refine (readRanged_eq_error s limit 0 n _).2 ⟨i, hi, fun k hk => ?_, .inl ⟨?_, ?_⟩⟩
  · rw [Nat.zero_add]; exact hbefore k hk
  · rw [Nat.zero_add]; exact hnone
  · rw [Nat.zero_add]

/-- The elements CW[0, N) of a state that holds them. -/
theorem readRanged_of_cwHolds {s : State} {xs : List Nat} {limit : Nat} (hcw : CwHolds s xs)
    (hlimit : ∀ x ∈ xs, x ≤ limit) : readRanged s limit 0 (lenN s) = .ok xs := by
  obtain ⟨hlen, hxs⟩ := hcw
  refine (readRanged_eq_ok s limit 0 _ xs).2 ⟨hlen.symm, fun j hj => ?_⟩
  have hj : j < xs.length := hlen ▸ hj
  rw [Nat.zero_add]
  exact ⟨hxs j hj, by simpa [hj] using hlimit _ (List.getElem_mem hj)⟩

/-! ## The checks before the reads, from the rules' own conditions -/

theorem require_of {ok : Bool} {code : ErrCode} {r0 r1 : Nat} (h : ok = true) : require ok code r0 r1 = .ok () := by
  rw [h]; rfl

theorem checkLength_of {verify : Bool} {n : Nat} (hpos : n ≠ 0) (hn : n ≤ Config.cwDepth) :
    checkLength verify n = .ok () := require_of (by simpa [hpos] using hn)

/-- RS_ECC200's shape test, in the words of R117. -/
theorem eccShapeOk_of {N E B : Nat} (h : EccShape N E B) : eccShapeOk E B = true := by
  obtain ⟨hB, hE, hmod, hk, -⟩ := h
  simp only [eccShapeOk, Config.rsKMax, Bool.not_eq_true', Bool.or_eq_false_iff, decide_eq_false_iff_not]
  omega

theorem inGrid_of {n : Nat} (h1 : 1 ≤ n) (h256 : n ≤ 256) : inGrid n = true := by simp [inGrid, h1, h256]

/-- DM_FRAME's geometry test, in the words of R138. -/
theorem frameGeometryOk_of {h w rv rh : Nat} (hh : 2 ≤ h) (hw : 2 ≤ w) (hh2 : h % 2 = 0) (hw2 : w % 2 = 0)
    (hrv : 1 ≤ rv) (hrh : 1 ≤ rh) (hrows : rv * (h + 2) ≤ 256) (hcols : rh * (w + 2) ≤ 256) :
    frameGeometryOk h w rv rh = true := by
  simp only [frameGeometryOk, Bool.not_eq_true', Bool.or_eq_false_iff, decide_eq_false_iff_not, Config.gridDim]
  omega

/-- ARG3's halves as quotient and remainder (R77). -/
theorem arg3Low_eq (s : State) : arg3Low s = s.arg3.toNat % 65536 := by
  simp [arg3Low, BitVec.extractLsb'_toNat]

theorem arg3High_eq (s : State) : arg3High s = s.arg3.toNat / 65536 := by
  have := word_toNat_lt s.arg3
  simp only [arg3High, BitVec.extractLsb'_toNat, Nat.shiftRight_eq_div_pow]
  omega

/-! ## Unwritten elements of CW, by command -/

/-- PDF_ROWS's plan after its three operand checks (R150). -/
theorem pdfRowsPlan_of {s : State} (hr1 : 1 ≤ arg1N s) (hr : arg1N s ≤ 90) (hc1 : 1 ≤ arg2N s) (hc : arg2N s ≤ 30)
    (hlevel : arg3N s ≤ 8) (hlen : lenN s = arg1N s * arg2N s) :
    pdfRowsPlan s = (do
      let data ← readRanged s (Config.pdfCwCount - 1) 0 (lenN s)
      let rows ← readRowPatterns s data (arg1N s) (arg2N s) (arg3N s) 0 (arg1N s)
      .ok { count := (rows.map (pdfRowCount s.pdfStart.toNat s.pdfStop.toNat)).sum,
            events := rows.flatMap (pdfRowEvents s.pdfStart.toNat s.pdfStop.toNat) }) := by
  have hgeometry : decide (1 ≤ arg1N s ∧ arg1N s ≤ Config.pdfRowsMax ∧ 1 ≤ arg2N s ∧
      arg2N s ≤ Config.pdfColsMax) = true :=
    decide_eq_true ⟨hr1, hr, hc1, hc⟩
  have hlevel : decide (arg3N s ≤ Config.pdfLevelMax) = true := decide_eq_true hlevel
  simp only [pdfRowsPlan, require_of hgeometry, require_of hlevel, require_of (decide_eq_true hlen), work_ok_bind]

theorem pdfRows_of_plan_fault {s : State} {f : Fault} (h : pdfRowsPlan s = .error (.fault f)) :
    exec .pdfRows s = .fault f := by
  simp only [exec, execPdfRows, h, work_error_bind, finish_fault]

section Elements

variable {s : State} {i : Nat} (hi : i < lenN s)

include hi

theorem ckMod10_unwritten (hlen : lenN s ≤ 4096) (hfirst : FirstUnwritten s 9 i) (verify : Bool) :
    exec (.ckMod10 verify) s = .fault (.unwritten .cw i) := by
  have hcheck : checkLength verify (lenN s) = .ok () := checkLength_of (by omega) hlen
  simp only [exec, execCkMod10, hcheck, readRanged_of_firstUnwritten hfirst hi, work_ok_bind, work_error_bind,
    finish_fault]

theorem ckMod103_unwritten (hlen : lenN s ≤ 4096) (hfirst : FirstUnwritten s 65535 i) (verify : Bool) :
    exec (.ckMod103 verify) s = .fault (.unwritten .cw i) := by
  have hcheck : checkLength verify (lenN s) = .ok () := checkLength_of (by omega) hlen
  simp only [exec, execCkMod103, hcheck, readRanged_of_firstUnwritten hfirst hi, work_ok_bind, work_error_bind,
    finish_fault]

theorem ckMod6_unwritten (hlen : lenN s ≤ 4096) (hfirst : FirstUnwritten s 35 i) (verify : Bool) :
    exec (.ckMod6 verify) s = .fault (.unwritten .cw i) := by
  have hcheck : checkLength verify (lenN s) = .ok () := checkLength_of (by omega) hlen
  simp only [exec, execCkMod6, hcheck, readRanged_of_firstUnwritten hfirst hi, work_ok_bind, work_error_bind,
    finish_fault]

/-- CK_FCS reads 13 bytes and, to verify, the supplied value after them: the unwritten element is one of the bytes, or it is
that value. -/
theorem ckFcs_unwritten (hfirst : FirstUnwritten s 255 i) (verify : Bool) (hlen : lenN s = 13 + flagN verify) :
    exec (.ckFcs verify) s = .fault (.unwritten .cw i) := by
  have hcheck : require (decide (lenN s = Config.fcsBytes + flagN verify)) .length (lenN s) 0 = .ok () :=
    require_of (decide_eq_true hlen)
  by_cases hbyte : i < Config.fcsBytes
  · simp only [exec, execCkFcs, hcheck, readRanged_of_firstUnwritten hfirst hbyte, work_ok_bind, work_error_bind,
      finish_fault]
  · have hflag : flagN verify ≤ 1 := by cases verify <;> decide
    have hlast : i = Config.fcsBytes := by simp only [Config.fcsBytes] at *; omega
    obtain ⟨hbefore, hnone⟩ := hfirst
    subst hlast
    obtain ⟨bytes, hbytes⟩ := readRanged_ok_of_written (s := s) (limit := 255) (i := 0) (n := Config.fcsBytes)
      fun j hj => by rw [Nat.zero_add]; exact hbefore j hj
    have hsupplied : readRanged s fcsMask Config.fcsBytes (flagN verify) =
        .error (.fault (.unwritten .cw Config.fcsBytes)) :=
      (readRanged_eq_error ..).2 ⟨0, by simp only [Config.fcsBytes] at hi; omega, nofun, .inl ⟨hnone, rfl⟩⟩
    simp only [exec, execCkFcs, hcheck, hbytes, hsupplied, work_ok_bind, work_error_bind, finish_fault]

theorem rsEcc200_unwritten (hfirst : FirstUnwritten s 255 i) (hshape : EccShape (lenN s) (arg1N s) (arg2N s)) :
    exec .rsEcc200 s = .fault (.unwritten .cw i) := by
  obtain ⟨-, -, -, -, hfit⟩ := id hshape
  have hlen : decide (lenN s + arg1N s ≤ Config.cwDepth) = true := decide_eq_true hfit
  simp only [exec, execRsEcc200, require_of (eccShapeOk_of hshape), require_of hlen,
    readRanged_of_firstUnwritten hfirst hi, work_ok_bind, work_error_bind, finish_fault]

theorem pdfEcc_unwritten (hfirst : FirstUnwritten s 928 i) (hlevel : arg1N s ≤ 8)
    (hfit : lenN s + 2 ^ (arg1N s + 1) ≤ 4096) : exec .pdfEcc s = .fault (.unwritten .cw i) := by
  have hlevel : decide (arg1N s ≤ Config.pdfLevelMax) = true := decide_eq_true hlevel
  have hlen : decide (lenN s + 2 ^ (arg1N s + 1) ≤ Config.cwDepth) = true := decide_eq_true hfit
  have hread : readRanged s (Config.pdfCwCount - 1) 0 (lenN s) = _ := readRanged_of_firstUnwritten hfirst hi
  simp only [exec, execPdfEcc, require_of hlevel, require_of hlen, hread, work_ok_bind, work_error_bind, finish_fault]

theorem dmPlace_unwritten (hlen : lenN s ≤ 4096) (hfirst : FirstUnwritten s 255 i)
    (hgrid : (inGrid (arg1N s) && inGrid (arg2N s)) = true) : exec .dmPlace s = .fault (.unwritten .cw i) := by
  have hlen : decide (lenN s ≤ Config.cwDepth) = true := decide_eq_true hlen
  have hoperands : placeOperands s = .error (.fault (.unwritten .cw i)) := by
    simp only [placeOperands, require_of hgrid, require_of hlen, readRanged_of_firstUnwritten hfirst hi, work_ok_bind]
  simp only [exec, execDmPlace, hoperands, finish_fault]

theorem pdfRows_unwritten (hfirst : FirstUnwritten s 928 i) (hr1 : 1 ≤ arg1N s) (hr : arg1N s ≤ 90) (hc1 : 1 ≤ arg2N s)
    (hc : arg2N s ≤ 30) (hlevel : arg3N s ≤ 8) (hlen : lenN s = arg1N s * arg2N s) :
    exec .pdfRows s = .fault (.unwritten .cw i) := by
  refine pdfRows_of_plan_fault ?_
  have hread : readRanged s (Config.pdfCwCount - 1) 0 (lenN s) = _ := readRanged_of_firstUnwritten hfirst hi
  rw [pdfRowsPlan_of hr1 hr hc1 hc hlevel hlen, hread, work_error_bind]

theorem barWalk_unwritten (hlen : lenN s ≤ 4096) (hfirst : FirstUnwritten s 255 i) (black1 : Bool) (kind : BitVec 4)
    (hkind : kind.toNat < 8) : exec (.barWalk black1 kind) s = .fault (.unwritten .cw i) := by
  have hlen : decide (lenN s ≤ Config.cwDepth) = true := decide_eq_true hlen
  have hwf : (Instr.barWalk black1 kind).wellFormed = true := decide_eq_true hkind
  have hread : readRanged s (Config.bartabDepth - 1) 0 (lenN s) = _ := readRanged_of_firstUnwritten hfirst hi
  simp only [exec, execBarWalk, hwf, if_true, barWalkPlan, require_of hlen, hread, work_ok_bind, work_error_bind,
    finish_fault]

end Elements

/-! ## Unwritten cells -/

/-- The first unwritten cell of a region, in row-major order, is the fault of reading the region. -/
theorem readRows_of_firstUnwrittenCell {name : RamName} {g : Ram Cell} {rows cols r c : Nat}
    (hfirst : FirstUnwrittenCell g rows cols r c) :
    readRows name g cols 0 rows = .error (.fault (.unwritten name (256 * r + c))) := by
  obtain ⟨hr, hc, hnone, hbefore⟩ := hfirst
  have hindex (y x : Nat) : cellIndex y x = 256 * y + x := by simp only [cellIndex, Config.gridDim]; omega
  have hset (y x : Nat) (hy : y < rows) (hx : x < cols) (hlt : y < r ∨ y = r ∧ x < c) :
      ∃ b, readSetCell name g y x = .ok b := by
    obtain ⟨b, hb⟩ := hbefore y x hy hx hlt
    exact ⟨b, (readSetCell_eq_ok name g y x b).2 (hindex y x ▸ hb)⟩
  have hrow : readRow name g r 0 cols = .error (.fault (.unwritten name (256 * r + c))) := by
    rw [readRow_eq_mapM]
    refine mapM_eq_error (k := c) (a := c) (by simp [hc]) (fun j x hj hx => ?_) ?_
    · obtain ⟨hjc, rfl⟩ : j < cols ∧ j = x := by simpa [List.getElem?_range', List.getElem?_eq_some_iff] using hx
      exact hset r j hr hjc (.inr ⟨rfl, hj⟩)
    · exact (readSetCell_eq_error ..).2 (.inl ⟨hindex r c ▸ hnone, by rw [hindex]⟩)
  rw [readRows_eq_mapM]
  refine mapM_eq_error (k := r) (a := r) (by simp [hr]) (fun j y hj hy => ?_) hrow
  obtain ⟨hjr, rfl⟩ : j < rows ∧ j = y := by simpa [List.getElem?_range', List.getElem?_eq_some_iff] using hy
  rw [readRow_eq_mapM]
  refine mapM_ok fun x hx => hset j x hjr ?_ (.inl hj)
  simpa [List.mem_range'_1] using hx

theorem dmFrame_unwritten {s : State} {r c : Nat}
    (hgeometry : frameGeometryOk (arg1N s) (arg2N s) (arg3Low s) (arg3High s) = true)
    (hfirst : FirstUnwrittenCell s.ga (arg3Low s * arg1N s) (arg3High s * arg2N s) r c) :
    exec .dmFrame s = .fault (.unwritten .ga (256 * r + c)) := by
  simp only [exec, execDmFrame, require_of hgeometry, readRows_of_firstUnwrittenCell hfirst, work_ok_bind,
    work_error_bind, finish_fault]

theorem gridEmit_unwritten {s : State} {selA : Bool} {r c : Nat}
    (hgrid : (inGrid (arg1N s) && inGrid (arg2N s)) = true)
    (hfirst : FirstUnwrittenCell (if selA then s.ga else s.gb) (arg1N s) (arg2N s) r c) :
    exec (.gridEmit selA) s = .fault (.unwritten (if selA then .ga else .gb) (256 * r + c)) := by
  cases selA with
  | true =>
    have hread : readRows .ga s.ga (arg2N s) 0 (arg1N s) = _ := readRows_of_firstUnwrittenCell hfirst
    simp only [exec, execGridEmit, gridEmitPlan, require_of hgrid, hread, if_true, work_ok_bind, work_error_bind,
      finish_fault]
  | false =>
    have hread : readRows .gb s.gb (arg2N s) 0 (arg1N s) = _ := readRows_of_firstUnwrittenCell hfirst
    simp only [exec, execGridEmit, gridEmitPlan, require_of hgrid, hread, Bool.false_eq_true, if_false, work_ok_bind,
      work_error_bind, finish_fault]

/-! ## Unwritten table entries -/

/-- An entry with element widths in the words of R153 is valid. -/
theorem entryValid_of_entryHolds {t : Word} {widths : List Nat} (h : EntryHolds t widths) :
    entryValid t.toNat = true := by
  obtain ⟨h1, h7, hcount, hwidths⟩ := h
  have hcount : entryCount t.toNat = widths.length := hcount
  simp only [entryValid, entryWidths, hcount, Bool.and_eq_true, decide_eq_true_eq, List.all_eq_true, List.mem_map,
    List.mem_range]
  refine ⟨⟨h1, h7⟩, ?_⟩
  rintro w ⟨e, he, rfl⟩
  rw [entryWidth, Nat.shiftRight_eq_div_pow]
  exact (hwidths e he).2

theorem readBarEntry_of_entryHolds {s : State} {x : Nat} {t : Word} {widths : List Nat} (hread : s.bt.read x = some t)
    (h : EntryHolds t widths) : readBarEntry s x = .ok (x, t.toNat) := by
  simp only [readBarEntry, (readEntry_eq_ok ..).2 hread, require_of (entryValid_of_entryHolds h), work_ok_bind]

theorem readBarEntry_of_unwritten {s : State} {x : Nat} (hread : s.bt.read x = none) :
    readBarEntry s x = .error (.fault (.unwritten .bt x)) := by
  simp only [readBarEntry, (readEntry_eq_error ..).2 ⟨hread, rfl⟩, work_error_bind]

theorem barWalk_unwritten_entry {s : State} {black1 : Bool} {kind : BitVec 4} {xs : List Nat} {k : Nat}
    (hkind : kind.toNat < 8) (hcw : CwHolds s xs) (hlen : xs.length ≤ 4096) (hxs : ∀ x ∈ xs, x < 256)
    (hk : k < xs.length) (hbefore : ∀ j, j < k → ∃ u ws, s.bt.read (xs.getD j 0) = some u ∧ EntryHolds u ws)
    (hnone : s.bt.read (xs.getD k 0) = none) :
    exec (.barWalk black1 kind) s = .fault (.unwritten .bt (xs.getD k 0)) := by
  have hlenN : decide (lenN s ≤ Config.cwDepth) = true := decide_eq_true (hcw.1.trans_le hlen)
  have hwf : (Instr.barWalk black1 kind).wellFormed = true := decide_eq_true hkind
  have helements : readRanged s (Config.bartabDepth - 1) 0 (lenN s) = .ok xs :=
    readRanged_of_cwHolds hcw fun x hx => Nat.le_sub_one_of_lt (hxs x hx)
  have hentries : readBarEntries s xs = .error (.fault (.unwritten .bt (xs.getD k 0))) := by
    rw [readBarEntries_eq_mapM]
    refine mapM_eq_error (k := k) (by simp [hk]) (fun j x hj hx => ?_) (readBarEntry_of_unwritten hnone)
    obtain ⟨u, ws, hu, hholds⟩ := hbefore j hj
    rw [List.getD_eq_getElem?_getD, hx] at hu
    exact ⟨_, readBarEntry_of_entryHolds hu hholds⟩
  simp only [exec, execBarWalk, hwf, if_true, barWalkPlan, require_of hlenN, helements, hentries, work_ok_bind,
    work_error_bind, finish_fault]

/-- A pattern that starts black and ends white is read (R150). -/
theorem readPattern_of_valid {s : State} {cl v : Nat} {p : BitVec 17} (hread : s.pt.read (cl * 1024 + v) = some p)
    (hfirst : p.getLsbD 16 = true) (hlast : p.getLsbD 0 = false) : readPattern s cl v = .ok (v, p.toNat) := by
  have hcheck : (p.toNat.testBit 16 && !p.toNat.testBit 0) = true := by
    rw [show p.toNat.testBit 16 = true from hfirst, show p.toNat.testBit 0 = false from hlast]; rfl
  have hentry : readEntry .pt s.pt (ptIndex cl v) = .ok p := (readEntry_eq_ok ..).2 hread
  simp only [readPattern, hentry, require_of hcheck, work_ok_bind]

theorem readPattern_of_unwritten {s : State} {cl v : Nat} (hread : s.pt.read (cl * 1024 + v) = none) :
    readPattern s cl v = .error (.fault (.unwritten .pt (cl * 1024 + v))) := by
  have hentry : readEntry .pt s.pt (ptIndex cl v) = .error (.fault (.unwritten .pt (cl * 1024 + v))) :=
    (readEntry_eq_error ..).2 ⟨hread, rfl⟩
  simp only [readPattern, hentry, work_error_bind]

theorem leftOf_eq (y r c level : Nat) : leftOf y r c level = leftIndicator y r c level := by
  obtain h | h | h : y % 3 = 0 ∨ y % 3 = 1 ∨ y % 3 = 2 := by omega
  · simp [leftOf, leftIndicator, h]
  · simp [leftOf, leftIndicator, h, Nat.add_assoc]
  · simp [leftOf, leftIndicator, h]

theorem rightOf_eq (y r c level : Nat) : rightOf y r c level = rightIndicator y r c level := by
  obtain h | h | h : y % 3 = 0 ∨ y % 3 = 1 ∨ y % 3 = 2 := by omega
  · simp [rightOf, rightIndicator, h]
  · simp [rightOf, rightIndicator, h]
  · simp [rightOf, rightIndicator, h, Nat.add_assoc]

/-- The codewords of a row, in the words of R150. -/
theorem rowCodewords_eq {xs : List Nat} {r c level y : Nat} (hlen : xs.length = r * c) (hy : y < r) :
    rowCodewords xs r c level y = rowOfSymbol xs r c level y := by
  have hrow : y * c + c ≤ r * c := by
    calc y * c + c = (y + 1) * c := by rw [Nat.add_mul, Nat.one_mul]
      _ ≤ r * c := Nat.mul_le_mul_right c hy
  have hdata : (xs.drop (y * c)).take c = (List.range c).map (fun x => xs.getD (y * c + x) 0) := by
    refine List.ext_getElem (by simp [hlen]; omega) fun j h1 h2 => ?_
    have hj : j < c := by simpa using h2
    have hin : y * c + j < xs.length := by omega
    simp [hin]
  simp [rowCodewords, rowOfSymbol, hdata, leftOf_eq, rightOf_eq]

theorem pdfRows_unwritten_pattern {s : State} {xs : List Nat} {y k v : Nat} (hcw : CwHolds s xs)
    (hxs : ∀ x ∈ xs, x ≤ 928) (hr1 : 1 ≤ arg1N s) (hr : arg1N s ≤ 90) (hc1 : 1 ≤ arg2N s) (hc : arg2N s ≤ 30)
    (hlevel : arg3N s ≤ 8) (hlen : xs.length = arg1N s * arg2N s) (hy : y < arg1N s)
    (hv : (rowOfSymbol xs (arg1N s) (arg2N s) (arg3N s) y)[k]? = some v)
    (hbefore : ∀ y' k' v', (y' < y ∨ (y' = y ∧ k' < k)) →
      (rowOfSymbol xs (arg1N s) (arg2N s) (arg3N s) y')[k']? = some v' →
      ∃ q, s.pt.read ((y' % 3) * 1024 + v') = some q ∧ q.getLsbD 16 = true ∧ q.getLsbD 0 = false)
    (hnone : s.pt.read ((y % 3) * 1024 + v) = none) :
    exec .pdfRows s = .fault (.unwritten .pt ((y % 3) * 1024 + v)) := by
  have hvalid (y' k' v' : Nat) (hlt : y' < y ∨ (y' = y ∧ k' < k))
      (hv' : (rowOfSymbol xs (arg1N s) (arg2N s) (arg3N s) y')[k']? = some v') :
      ∃ q, readPattern s (y' % Config.pdfClusters) v' = .ok q := by
    obtain ⟨p, hp, hfirst, hlast⟩ := hbefore y' k' v' hlt hv'
    exact ⟨_, readPattern_of_valid hp hfirst hlast⟩
  have hrow : readPatterns s (y % Config.pdfClusters) (rowCodewords xs (arg1N s) (arg2N s) (arg3N s) y) =
      .error (.fault (.unwritten .pt ((y % 3) * 1024 + v))) := by
    rw [rowCodewords_eq hlen hy, readPatterns_eq_mapM]
    exact mapM_eq_error hv (fun j w hj hw => hvalid y j w (.inr ⟨rfl, hj⟩) hw) (readPattern_of_unwritten hnone)
  have hrows : readRowPatterns s xs (arg1N s) (arg2N s) (arg3N s) 0 (arg1N s) =
      .error (.fault (.unwritten .pt ((y % 3) * 1024 + v))) := by
    rw [readRowPatterns_eq_mapM]
    refine mapM_eq_error (k := y) (a := y) (by simp [hy]) (fun j z hj hz => ?_) hrow
    obtain ⟨hjr, rfl⟩ : j < arg1N s ∧ j = z := by simpa [List.getElem?_range', List.getElem?_eq_some_iff] using hz
    rw [rowCodewords_eq hlen hjr, readPatterns_eq_mapM]
    refine mapM_ok fun w hw => ?_
    obtain ⟨k', hk', rfl⟩ := List.mem_iff_getElem.1 hw
    exact hvalid j k' _ (.inl hj) (List.getElem?_eq_getElem hk')
  have hdata : readRanged s (Config.pdfCwCount - 1) 0 (lenN s) = .ok xs := readRanged_of_cwHolds hcw hxs
  refine pdfRows_of_plan_fault ?_
  rw [pdfRowsPlan_of hr1 hr hc1 hc hlevel (hcw.1.trans hlen), hdata, work_ok_bind, hrows,
    work_error_bind]

/-! ## The statement -/

/-- Settles O59: the faults of a step by `step_fault`, and the fault of each command's first unwritten entry. -/
theorem onlyUnwrittenEntriesFault : Obligations.OnlyUnwrittenEntriesFault := by
  refine ⟨step_ne_refused, fun s f hs h => ?_, fun s i hi hlen => ?_, ?_, ?_, ?_, ?_⟩
  · obtain ⟨w, name, idx, hbusy, hturns, hf, hread, -⟩ := step_fault hs h
    exact ⟨w, name, idx, hbusy, hturns, hf, hread⟩
  · refine ⟨ckMod10_unwritten hi hlen, ckMod103_unwritten hi hlen, ckMod6_unwritten hi hlen,
      ckFcs_unwritten hi, rsEcc200_unwritten hi, pdfEcc_unwritten hi, ?_, pdfRows_unwritten hi,
      barWalk_unwritten hi hlen⟩
    intro hfirst hr1 hr hc1 hc
    exact dmPlace_unwritten hi hlen hfirst (by rw [arg1N, arg2N, inGrid_of hr1 hr, inGrid_of hc1 hc]; rfl)
  · rintro s h w rv rh r c rfl rfl rfl rfl hh hw hh2 hw2 hrv hrh hrows hcols hfirst
    rw [← arg3Low_eq, ← arg3High_eq] at *
    exact dmFrame_unwritten (frameGeometryOk_of hh hw hh2 hw2 hrv hrh hrows hcols) hfirst
  · intro s selA r c hr1 hr hc1 hc hfirst
    exact gridEmit_unwritten (by rw [arg1N, arg2N, inGrid_of hr1 hr, inGrid_of hc1 hc]; rfl) hfirst
  · intro s black1 kind xs k hkind hcw hlen hxs hk hbefore hnone
    exact barWalk_unwritten_entry hkind hcw hlen hxs hk hbefore hnone
  · rintro s xs r c level y k v hcw hxs rfl rfl rfl hr1 hr hc1 hc hlevel hlen hy hv hbefore hnone
    exact pdfRows_unwritten_pattern hcw hxs hr1 hr hc1 hc hlevel hlen hy hv hbefore hnone

end Sys2Proof.Proofs

end

section

/-! PROOF. The address map and the windows of the host port (20_memory.md R51 to R58), and what the host may do while a
command runs (R57 c, R64, R65, R84). -/

namespace Sys2Proof.Proofs

open Sys2Proof Sys2Proof.Machine Sys2Proof.Claims

/-! ## The address map -/

/-- A window of the host port: its first byte address, its number of words, and what its word `k` names (R51). -/
structure Window where
  base : Nat
  entries : Nat
  names : Nat → Target

def regWindow : Window := ⟨0x00000, 256, regTarget⟩
def cwWindow : Window := ⟨0x04000, Config.cwDepth, .cw⟩
def btWindow : Window := ⟨0x08000, Config.bartabDepth, .bt⟩
def ptWindow : Window := ⟨0x10000, 4096, ptTarget⟩
def gaWindow : Window := ⟨0x40000, Config.gridDim * Config.gridDim, .ga⟩
def gbWindow : Window := ⟨0x80000, Config.gridDim * Config.gridDim, .gb⟩
def evWindow : Window := ⟨0xC0000, Config.evDepth, .ev⟩

/-- The windows of R51's map. -/
def windows : List Window := [regWindow, cwWindow, btWindow, ptWindow, gaWindow, gbWindow, evWindow]

/-- Every window is aligned and ends inside the address space (R50, R51). -/
theorem window_fits : ∀ w ∈ windows, w.base % 4 = 0 ∧ w.base + 4 * w.entries ≤ 2 ^ 20 := by decide

/-- The REG window stands first, below all others (R51). -/
theorem eq_regWindow_or_le_base : ∀ w ∈ windows, w = regWindow ∨ 0x400 ≤ w.base := by
  simp [windows, cwWindow, btWindow, ptWindow, gaWindow, gbWindow, evWindow]

/-- Byte address `a` lies in the window. -/
def Window.has (w : Window) (a : Nat) : Bool := inWindow a w.base w.entries

/-- No two windows overlap (R51). -/
theorem windows_disjoint : ∀ v ∈ windows, ∀ w ∈ windows,
    v = w ∨ v.base + 4 * v.entries ≤ w.base ∨ w.base + 4 * w.entries ≤ v.base := by
  simp [windows, regWindow, cwWindow, btWindow, ptWindow, gaWindow, gbWindow, evWindow, Config.cwDepth,
    Config.bartabDepth, Config.gridDim, Config.evDepth]

theorem Window.has_iff (w : Window) (a : Nat) : w.has a = true ↔ w.base ≤ a ∧ a < w.base + 4 * w.entries := by
  simp only [Window.has, inWindow, Bool.and_eq_true, decide_eq_true_eq]

/-- The model's address map is a search of the windows (R51). -/
theorem target_eq_find (a : Nat) : target a =
    (windows.find? (·.has a)).map fun w => w.names ((a - w.base) / 4) := by
  unfold target
  simp only [windows, List.find?_cons, List.find?_nil, Window.has, regWindow, cwWindow, btWindow, ptWindow, gaWindow,
    gbWindow, evWindow]
  split_ifs <;> simp only [*] <;> rfl

/-- What the search finds is a window with the address. -/
theorem mem_has_of_find {a : Nat} {w : Window} (h : windows.find? (·.has a) = some w) : w ∈ windows ∧ w.has a = true :=
  ⟨List.mem_of_find?_eq_some h, List.find?_some (p := fun w : Window => w.has a) h⟩

/-- An address that names a target lies in the window that names it. -/
theorem exists_window_of_target {a : Nat} {t : Target} (h : target a = some t) :
    ∃ w ∈ windows, w.has a = true ∧ t = w.names ((a - w.base) / 4) := by
  rw [target_eq_find, Option.map_eq_some_iff] at h
  obtain ⟨w, hfind, rfl⟩ := h
  obtain ⟨hw, ha⟩ := mem_has_of_find hfind
  exact ⟨w, hw, ha, rfl⟩

/-- An address in a window names what the window names there. -/
theorem target_of_has {w : Window} (hw : w ∈ windows) {a : Nat} (ha : w.has a = true) :
    target a = some (w.names ((a - w.base) / 4)) := by
  obtain ⟨v, hfind⟩ : ∃ v, windows.find? (·.has a) = some v :=
    Option.isSome_iff_exists.1 (List.find?_isSome.2 ⟨w, hw, ha⟩)
  obtain ⟨hv, hva⟩ := mem_has_of_find hfind
  have hsame : v = w := by
    refine (windows_disjoint v hv w hw).resolve_right ?_
    rw [Window.has_iff] at hva ha
    omega
  rw [target_eq_find, hfind, hsame, Option.map_some]

/-- The mapped addresses are those of the windows. -/
theorem mapped_iff_has (a : Nat) : Mapped a ↔ ∃ w ∈ windows, w.has a = true := by
  simp only [windows, List.mem_cons, List.not_mem_nil, or_false, exists_eq_or_imp, exists_eq_left,
    Window.has_iff, regWindow, cwWindow, btWindow, ptWindow, gaWindow, gbWindow, evWindow, Config.cwDepth,
    Config.bartabDepth, Config.gridDim, Config.evDepth, Mapped]
  omega

theorem exists_target_iff_mapped (a : Nat) : (∃ t, target a = some t) ↔ Mapped a := by
  rw [mapped_iff_has]
  constructor
  · rintro ⟨t, ht⟩
    obtain ⟨w, hw, ha, -⟩ := exists_window_of_target ht
    exact ⟨w, hw, ha⟩
  · rintro ⟨w, hw, ha⟩
    exact ⟨_, target_of_has hw ha⟩

/-! ## The responses (R57) -/

/-- The words of the REG window beyond the eighteen registers are holes (R52). -/
theorem regTarget_of_le {k : Nat} (hk : 18 ≤ k) : regTarget k = .regHole := by
  have hlist : regList[k]? = none := List.getElem?_eq_none hk
  simp only [regTarget, hlist]

/-- The registers of R57 c stand below word 4 and from word 16 on, and the holes follow them. -/
theorem alwaysOpen_regTarget (k : Nat) : alwaysOpen (regTarget k) = true ↔ k < 4 ∨ 16 ≤ k := by
  by_cases hk : k < 18
  · revert k; decide
  · simp only [regTarget_of_le (Nat.le_of_not_lt hk), alwaysOpen, true_iff]
    omega

/-- CTRL is word 2 of the REG window alone (R52). -/
theorem eq_two_of_regTarget_eq_ctrl {k : Nat} (h : regTarget k = .reg .ctrl) : k = 2 := by
  by_cases hk : k < 18
  · have hlisted : ∀ k < 18, regTarget k = .reg .ctrl → k = 2 := by decide
    exact hlisted k hk h
  · rw [regTarget_of_le (Nat.le_of_not_lt hk)] at h
    cases h

theorem alwaysOpen_ptTarget (k : Nat) : alwaysOpen (ptTarget k) = false := by
  unfold ptTarget; split <;> rfl

/-- Outside the REG window no target answers in modes INIT and BUSY. -/
theorem alwaysOpen_names {w : Window} (hw : w ∈ windows) (k : Nat) :
    alwaysOpen (w.names k) = true ↔ w = regWindow ∧ (k < 4 ∨ 16 ≤ k) := by
  simp only [windows, List.mem_cons, List.not_mem_nil, or_false] at hw
  rcases hw with rfl | rfl | rfl | rfl | rfl | rfl | rfl
  · exact (alwaysOpen_regTarget k).trans (by rw [eq_self, true_and])
  · simp [cwWindow, regWindow, alwaysOpen]
  · simp [btWindow, regWindow, alwaysOpen]
  · simp [ptWindow, regWindow, alwaysOpen_ptTarget]
  · simp [gaWindow, regWindow, alwaysOpen]
  · simp [gbWindow, regWindow, alwaysOpen]
  · simp [evWindow, regWindow, alwaysOpen]

/-- R57 c in the words of the statement. -/
theorem alwaysOpen_iff_openWhileBusy {a : Nat} {t : Target} (h : target a = some t) :
    alwaysOpen t = true ↔ OpenWhileBusy a := by
  obtain ⟨w, hw, ha, rfl⟩ := exists_window_of_target h
  rw [alwaysOpen_names hw]
  rw [Window.has_iff] at ha
  by_cases hreg : w = regWindow
  · subst hreg
    simp only [regWindow, OpenWhileBusy, true_and] at ha ⊢
    omega
  · have hlow : 0x400 ≤ a := ((eq_regWindow_or_le_base w hw).resolve_left hreg).trans ha.1
    simp only [hreg, false_and, OpenWhileBusy, false_iff]
    omega

/-- A transaction is accepted in exactly the cases R57 does not refuse. -/
theorem exists_accepted_iff (s : State) (addr : HostAddr) (size : Nat) :
    (∃ t, accepted s addr size = some t) ↔ ¬ Refused s addr size := by
  simp only [accepted_eq_some, Refused, not_or, not_not, not_and_or, busy_eq_false_iff]
  constructor
  · rintro ⟨t, hsize, hal, ht, hopen⟩
    exact ⟨(exists_target_iff_mapped _).1 ⟨t, ht⟩, ⟨hsize, hal⟩, hopen.imp_right (alwaysOpen_iff_openWhileBusy ht).1⟩
  · rintro ⟨hmap, ⟨hsize, hal⟩, hopen⟩
    obtain ⟨t, ht⟩ := (exists_target_iff_mapped _).2 hmap
    exact ⟨t, hsize, hal, ht, hopen.imp_right (alwaysOpen_iff_openWhileBusy ht).2⟩

/-- Settles O6: R57's cases are those in which no target is accepted. -/
theorem slverrExactlyWhenRefused : Obligations.SlverrExactlyWhenRefused := by
  intro s addr size wdata
  refine ⟨fun href => ?_, fun hnot => ?_⟩
  · have hnone : accepted s addr size = none := Option.eq_none_iff_forall_ne_some.2 fun t ht =>
      (exists_accepted_iff s addr size).1 ⟨t, ht⟩ href
    simp only [portRead, portWrite, hnone, and_self]
  · obtain ⟨t, ht⟩ := (exists_accepted_iff s addr size).2 hnot
    simp only [portRead, portWrite, ht, and_true]
    exact ⟨_, rfl⟩

/-! ## The RAM windows -/

/-- The address of word `i` of a window names what the window names at `i`. -/
theorem names_word {w : Window} (hw : w ∈ windows) {i : Nat} (hi : i < w.entries) :
    Names (BitVec.ofNat 20 (w.base + 4 * i)) (w.names i) := by
  obtain ⟨hal, hend⟩ := window_fits w hw
  have ha : (BitVec.ofNat 20 (w.base + 4 * i)).toNat = w.base + 4 * i := Nat.mod_eq_of_lt (by omega)
  refine ⟨by omega, ?_⟩
  rw [ha, target_of_has hw ((Window.has_iff ..).2 (by omega)), show (w.base + 4 * i - w.base) / 4 = i by omega]

/-- Settles O7: word i of the CWBUF window is CW[i]. -/
theorem codewordBufferWindow : Obligations.CodewordBufferWindow := by
  intro s i wdata v hidle hi
  have hname : Names (BitVec.ofNat 20 (0x04000 + 4 * i)) (.cw i) := names_word (w := cwWindow) (by simp [windows]) hi
  rw [portWrite_of_names wdata hname (.inl hidle), portRead_of_names hname (.inl hidle)]
  refine ⟨⟨_, rfl, rfl, fun j => Ram.read_write ..⟩, fun hread => ?_⟩
  simp only [readTarget, hread, Option.getD_some]

/-- Settles O8: word i of the two windows is BT[i] and EV[i]. -/
theorem barTableAndEventWindows : Obligations.BarTableAndEventWindows := by
  intro s wdata v hidle
  refine ⟨fun i hi => ?_, fun i hi => ?_⟩
  · have hname : Names (BitVec.ofNat 20 (0x08000 + 4 * i)) (.bt i) := names_word (w := btWindow) (by simp [windows]) hi
    rw [portWrite_of_names wdata hname (.inl hidle), portRead_of_names hname (.inl hidle)]
    refine ⟨⟨_, rfl, rfl, fun j => Ram.read_write ..⟩, fun hread => ?_⟩
    simp only [readTarget, hread, Option.getD_some]
  · have hname : Names (BitVec.ofNat 20 (0xC0000 + 4 * i)) (.ev i) := names_word (w := evWindow) (by simp [windows]) hi
    rw [portWrite_of_names wdata hname (.inl hidle), portRead_of_names hname (.inl hidle)]
    refine ⟨⟨_, rfl, rfl, fun j => Ram.read_write ..⟩, fun hread => ?_⟩
    simp only [readTarget, hread, Option.getD_some]

/-- The PDFTAB window names an entry exactly for cl ≤ 2 and v < 929 (R55). -/
theorem ptTarget_eq {cl v : Nat} (hv : v < 1024) :
    ptTarget (cl * 1024 + v) = if cl ≤ 2 ∧ v < 929 then .pt (cl * 1024 + v) else .ptHole := by
  have hcl : (cl * 1024 + v) / 1024 = cl := by omega
  have hv : (cl * 1024 + v) % 1024 = v := by omega
  simp only [ptTarget, hcl, hv, Config.pdfClusters, Config.pdfCwCount, Nat.lt_succ_iff]

/-- Settles O9: a word of the PDFTAB window is an entry of PT or a hole, by `ptTarget_eq`. -/
theorem patternTableWindow : Obligations.PatternTableWindow := by
  intro s cl v wdata p hidle hcl hv
  have hname : Names (BitVec.ofNat 20 (0x10000 + 4 * (cl * 1024 + v))) (ptTarget (cl * 1024 + v)) :=
    names_word (w := ptWindow) (by simp [windows]) (by simp only [ptWindow]; omega)
  rw [portWrite_of_names wdata hname (.inl hidle), portRead_of_names hname (.inl hidle), ptTarget_eq hv]
  refine ⟨fun hentry => ?_, fun hhole => ?_⟩
  · rw [if_pos hentry]
    refine ⟨⟨_, rfl, rfl, fun j => Ram.read_write ..⟩, fun hread => ?_⟩
    simp only [readTarget, hread, Option.getD_some]
  · rw [if_neg hhole]
    exact ⟨rfl, rfl⟩

/-! ## The grid windows -/

theorem codeOfCell_setWidth (c : Cell) : (codeOfCell c).setWidth 32 = codeWord c := by
  match c with
  | .unset => rfl
  | .set false => rfl
  | .set true => rfl

/-- No cell's code is 0b01 (R56). -/
theorem codeWord_mem (c : Cell) : codeWord c ∈ [0#32, 2#32, 3#32] := by
  match c with
  | .unset => decide
  | .set false => decide
  | .set true => decide

/-- The cell a write stores, by the low two bits of the data (R56). -/
theorem cellOfCode_setWidth (wdata : Word) : cellOfCode (wdata.setWidth 2) =
    if wdata.toNat % 4 = 2 then .set false else if wdata.toNat % 4 = 3 then .set true else .unset := by
  have hcode : ∀ code : BitVec 2, cellOfCode code =
      if code.toNat = 2 then .set false else if code.toNat = 3 then .set true else .unset := by decide
  rw [hcode, BitVec.toNat_setWidth]

/-- Settles O10: word 256 r + c of a grid window is cell (r, c), written and read by its code. -/
theorem gridWindows : Obligations.GridWindows := by
  intro s r c wdata v hidle hr hc
  have hi : 256 * r + c < 65536 := by omega
  have hga : Names (BitVec.ofNat 20 (0x40000 + 4 * (256 * r + c))) (.ga (256 * r + c)) :=
    names_word (w := gaWindow) (by simp [windows]) hi
  have hgb : Names (BitVec.ofNat 20 (0x80000 + 4 * (256 * r + c))) (.gb (256 * r + c)) :=
    names_word (w := gbWindow) (by simp [windows]) hi
  refine ⟨fun hread => ?_, fun hread => ?_, fun base hbase => ?_, ?_, ?_⟩
  · rw [portRead_of_names hga (.inl hidle)]
    simp only [readTarget, hread, Option.getD_some, codeOfCell_setWidth]
  · rw [portRead_of_names hgb (.inl hidle)]
    simp only [readTarget, hread, Option.getD_some, codeOfCell_setWidth]
  · simp only [List.mem_cons, List.not_mem_nil, or_false] at hbase
    rcases hbase with rfl | rfl
    · rw [portRead_of_names hga (.inl hidle)]
      exact ⟨_, codeWord_mem _, by simp only [readTarget, codeOfCell_setWidth]; rfl⟩
    · rw [portRead_of_names hgb (.inl hidle)]
      exact ⟨_, codeWord_mem _, by simp only [readTarget, codeOfCell_setWidth]; rfl⟩
  · rw [portWrite_of_names wdata hga (.inl hidle), ← cellOfCode_setWidth]
    exact ⟨_, rfl, rfl, fun j => Ram.read_write ..⟩
  · rw [portWrite_of_names wdata hgb (.inl hidle), ← cellOfCode_setWidth]
    exact ⟨_, rfl, rfl, fun j => Ram.read_write ..⟩

/-! ## The host while a command runs -/

/-- `t` differs from `s` at most in IRQEN, DONE, ERR, the list of moves and the host port's answer. -/
def ChangesOnlyHostFlags (s t : State) : Prop :=
  ∃ irqen done err turns reply,
    t = { s with irqen := irqen, done := done, err := err, turns := turns, reply := reply }

/-- CTRL stands at 0x008 alone (R52). -/
theorem addr_of_names_ctrl {addr : HostAddr} (h : Names addr (.reg .ctrl)) : addr = 0x00008#20 := by
  obtain ⟨hal, ht⟩ := h
  obtain ⟨w, hw, ha, hnames⟩ := exists_window_of_target ht
  obtain ⟨rfl, -⟩ := (alwaysOpen_names hw _).1 (by rw [← hnames]; rfl)
  have hword : (addr.toNat - 0) / 4 = 2 := eq_two_of_regTarget_eq_ctrl hnames.symm
  have haddr : addr.toNat = 8 := by omega
  exact BitVec.eq_of_toNat_eq haddr

/-- A write to a target that answers in every mode changes the host's flags alone, but for the soft reset (R20, R22,
R57 c). -/
theorem writeTarget_changesOnlyHostFlags {s : State} {wdata : Word} {t : Target} (hopen : alwaysOpen t = true)
    (hctrl : t = .reg .ctrl → wdata.getLsbD 0 = false) : ChangesOnlyHostFlags s (writeTarget s wdata t) := by
  cases t with
  | regHole => exact ⟨_, _, _, _, _, rfl⟩
  | reg r =>
    cases r with
    | id | version | status | param0 | param1 => exact ⟨_, _, _, _, _, rfl⟩
    | ctrl =>
      rw [writeTarget_ctrl (hctrl rfl)]
      exact ⟨_, _, _, _, _, rfl⟩
    | _ => cases hopen
  | _ => cases hopen

/-- While the engine is INIT or BUSY, a Write that starts no soft reset changes the host's flags alone. -/
theorem portWrite_changesOnlyHostFlags {s : State} {addr : HostAddr} {size : Nat} {wdata : Word} (hbusy : busy s = true)
    (hctrl : addr = 0x00008#20 → wdata.getLsbD 0 = false) :
    ChangesOnlyHostFlags s (portWrite s addr size wdata) := by
  rcases portWrite_cases s addr size wdata with ⟨-, heq⟩ | ⟨t, ht, heq⟩
  · exact ⟨_, _, _, _, _, heq⟩
  · obtain ⟨-, hal, htarget, hopen⟩ := (accepted_eq_some s addr size t).1 ht
    have hopen : alwaysOpen t = true := hopen.resolve_left (by simp [hbusy])
    obtain ⟨irqen, done, err, turns, reply, hwrite⟩ := writeTarget_changesOnlyHostFlags (s := s) (wdata := wdata) hopen
      fun hreg => hctrl (addr_of_names_ctrl ⟨hal, hreg ▸ htarget⟩)
    rw [heq, hwrite]
    exact ⟨_, _, _, _, _, rfl⟩

theorem portRead_changesOnlyHostFlags (s : State) (addr : HostAddr) (size : Nat) :
    ChangesOnlyHostFlags s (portRead s addr size) :=
  ⟨_, _, _, _, _, portRead_eq s addr size⟩

/-- What one reading of STATUS in the host's `wait` does (R65, R81). -/
theorem portPoll_eq (s : State) :
    portPoll s = { s with
      turns := if busy s then .engine :: .poll :: s.turns else s.turns
      reply := .read .okay (statusWord s) } := by
  have hread : portRead s statusAddr 4 = { s with reply := .read .okay (statusWord s) } :=
    portRead_of_names (t := .reg .status) (by decide) (.inr rfl)
  unfold portPoll
  rw [hread]
  split <;> rfl

theorem busy_of_engine {s : State} {w : Word} (h : s.engine = .busy w) : busy s = true := by
  simp only [busy, h]

/-- Settles O15: the three moves of the host, each of which changes the host's flags alone. -/
theorem busyCommandKeepsItsOperands : Obligations.BusyCommandKeepsItsOperands := by
  intro s t w turn rest hbusy hturns halone hstep
  have hflags : ChangesOnlyHostFlags { s with turns := rest } t := by
    unfold step at hstep
    rw [hturns] at hstep
    cases turn with
    | engine | powerOn => exact halone.elim
    | read addr size =>
      cases hstep
      exact portRead_changesOnlyHostFlags _ addr size
    | write addr size wdata =>
      cases hstep
      exact portWrite_changesOnlyHostFlags (busy_of_engine hbusy) halone
    | poll =>
      cases hstep
      exact ⟨_, _, _, _, _, portPoll_eq _⟩
  obtain ⟨irqen, done, err, turns, reply, rfl⟩ := hflags
  exact ⟨rfl, ⟨rfl, rfl, rfl, rfl, rfl, rfl, rfl⟩, rfl, rfl, rfl, rfl, rfl, rfl, rfl, rfl, rfl, rfl, rfl, rfl⟩

/-! ## The wait loop -/

/-- STATUS.BUSY is bit 1 (R21). -/
theorem statusWord_bit_one (s : State) : (statusWord s).getLsbD 1 = busy s := by
  simp only [statusWord, BitVec.getLsbD_append]
  simp

theorem step_poll {s : State} {rest : List Turn} (hturns : s.turns = .poll :: rest) :
    step s = .next { s with
      turns := if busy s then .engine :: .poll :: rest else rest
      reply := .read .okay (statusWord s) } := by
  simp only [step, hturns, portPoll_eq]
  rfl

/-- The engine's move, next on the list, runs the command the engine holds (R72, R85). -/
theorem step_engine_of_decode {s : State} {w : Word} {i : Instr} {rest : List Turn} (hbusy : s.engine = .busy w)
    (hdecode : decode w = .ok i) (hturns : s.turns = .engine :: rest) :
    step s = exec i { s with turns := rest } := by
  simp only [step, hturns, engineStep, hbusy, hdecode]

/-- Settles O16: the poll finds BUSY and lets the engine move, the command ends, and the second poll finds the engine IDLE. -/
theorem pollEndsWithTheCommand : Obligations.PollEndsWithTheCommand := by
  intro s w i rest t hbusy hdecode hturns hexec
  obtain ⟨hidle, hinputs, -⟩ := commandsChangeOnlyTheirOutputs _ _ _ hexec
  have hready : busy t = false := (busy_eq_false_iff t).2 hidle
  have hturns' : t.turns = .poll :: rest := by
    obtain ⟨-, -, -, -, -, -, -, -, -, -, -, -, -, -, hkept, -⟩ := hinputs
    exact hkept
  have hfirst : step s = .next
      { s with turns := .engine :: .poll :: rest, reply := .read .okay (statusWord s) } := by
    rw [step_poll hturns, busy_of_engine hbusy, if_pos rfl]
  have hsecond : step { s with turns := .engine :: .poll :: rest, reply := .read .okay (statusWord s) } = .next t := by
    rw [← hexec]
    exact step_engine_of_decode hbusy hdecode rfl
  have hthird : step t = .next { t with turns := rest, reply := .read .okay (statusWord t) } := by
    rw [step_poll hturns', hready, if_neg Bool.false_ne_true]
  refine ⟨?_, (statusWord_bit_one t).trans hready⟩
  simp only [Host.Core.run, core, hfirst, hsecond, hthird]

end Sys2Proof.Proofs

end

section

/-! PROOF. The command word (30_encoding.md R70 to R76): a word is its fields, and the decoder reads them as the encoder writes
them, for exactly the words of R75; and the steps that issue and run a word (R72). -/

namespace Sys2Proof.Proofs

open Sys2Proof Sys2Proof.Machine Sys2Proof.Claims Sys2Proof.Laws

/-! ## A command word is its fields (R70) -/

/-- The number a command word stands for: each field at its place (R70). -/
theorem commandWord_toNat (op : BitVec 8) (flag : Bool) (kind : BitVec 4) :
    (commandWord op flag kind).toNat = kind.toNat * 4096 + flag.toNat * 256 + op.toNat := by
  simp only [commandWord, toNat_append_eq, BitVec.toNat_ofBool, BitVec.toNat_ofNat]
  omega

theorem opcodeField_toNat (w : Word) : (opcodeField w).toNat = w.toNat % 256 := by
  simp only [opcodeField, BitVec.extractLsb'_toNat, Nat.shiftRight_zero, Nat.reducePow]

theorem flagField_toNat (w : Word) : (flagField w).toNat = w.toNat / 256 % 2 := by
  simp only [flagField, BitVec.getLsbD, Nat.toNat_testBit, Nat.reducePow]

theorem reservedLow_toNat (w : Word) : (reservedLow w).toNat = w.toNat / 512 % 8 := by
  simp only [reservedLow, BitVec.extractLsb'_toNat, Nat.shiftRight_eq_div_pow, Nat.reducePow]

theorem kindField_toNat (w : Word) : (kindField w).toNat = w.toNat / 4096 % 16 := by
  simp only [kindField, BitVec.extractLsb'_toNat, Nat.shiftRight_eq_div_pow, Nat.reducePow]

theorem reservedHigh_toNat (w : Word) : (reservedHigh w).toNat = w.toNat / 65536 % 65536 := by
  simp only [reservedHigh, BitVec.extractLsb'_toNat, Nat.shiftRight_eq_div_pow, Nat.reducePow]

/-- A word with these fields is one whose reserved bits are 0, and no other (R70). -/
theorem commandWord_eq_iff (op : BitVec 8) (flag : Bool) (kind : BitVec 4) (w : Word) :
    commandWord op flag kind = w ↔
      (reservedLow w = 0#3 ∧ reservedHigh w = 0#16) ∧ op = opcodeField w ∧ flag = flagField w ∧ kind = kindField w := by
  have hflag : flag = flagField w ↔ flag.toNat = (flagField w).toNat := by
    cases flag <;> cases flagField w <;> decide
  rw [hflag]
  simp only [← BitVec.toNat_inj, commandWord_toNat, opcodeField_toNat, flagField_toNat, reservedLow_toNat,
    kindField_toNat, reservedHigh_toNat, BitVec.toNat_ofNat]
  have := op.isLt
  have := kind.isLt
  have := flag.toNat_le
  have := word_toNat_lt w
  omega

/-! ## The fields of a command (R71, R73, R74) -/

/-- The flag F of a command, 0 where the opcode gives F no meaning (R73). -/
def flagOf : Instr → Bool
  | .ckMod10 flag | .ckMod103 flag | .ckMod6 flag | .ckFcs flag | .gridEmit flag | .barWalk flag _ => flag
  | .nop | .rsEcc200 | .pdfEcc | .dmPlace | .dmFrame | .pdfRows => false

/-- The KIND of a command, 0 for every opcode but BAR_WALK (R74). -/
def kindOf : Instr → BitVec 4
  | .barWalk _ kind => kind
  | .nop | .rsEcc200 | .pdfEcc | .ckMod10 _ | .ckMod103 _ | .ckMod6 _ | .ckFcs _ | .dmPlace | .dmFrame | .gridEmit _
  | .pdfRows => 0#4

theorem encode_eq_commandWord (i : Instr) : encode i = commandWord (opcodeOf i) (flagOf i) (kindOf i) := by
  cases i <;> rfl

/-- The command is one the spec gives, and these are its fields. -/
def HasFields (i : Instr) (op : BitVec 8) (flag : Bool) (kind : BitVec 4) : Prop :=
  i.wellFormed = true ∧ opcodeOf i = op ∧ flagOf i = flag ∧ kindOf i = kind

/-- A command's word is the word with its fields and with the reserved bits 0. -/
theorem wellFormed_and_encode_eq_iff (i : Instr) (w : Word) :
    (i.wellFormed = true ∧ encode i = w) ↔
      (reservedLow w = 0#3 ∧ reservedHigh w = 0#16) ∧ HasFields i (opcodeField w) (flagField w) (kindField w) := by
  rw [encode_eq_commandWord, commandWord_eq_iff]
  exact and_left_comm

/-! ## The forms of the decoder -/

theorem flagForm_eq_ok_iff {kind : BitVec 4} {i j : Instr} : flagForm kind j = .ok i ↔ kind = 0#4 ∧ j = i := by
  unfold flagForm
  by_cases hkind : kind = 0#4 <;> simp [hkind]

theorem plainForm_eq_ok_iff {flag : Bool} {kind : BitVec 4} {i j : Instr} :
    plainForm flag kind j = .ok i ↔ flag = false ∧ kind = 0#4 ∧ j = i := by
  cases flag <;> simp [plainForm, flagForm_eq_ok_iff]

theorem barWalkForm_eq_ok_iff {flag : Bool} {kind : BitVec 4} {i : Instr} :
    barWalkForm flag kind = .ok i ↔ kind.getLsbD 3 = false ∧ .barWalk flag kind = i := by
  unfold barWalkForm
  cases kind.getLsbD 3 <;> simp

/-- A KIND of 0 to 7 is one whose high bit is 0 (R74, R75). -/
theorem kind_toNat_lt_eight_iff (kind : BitVec 4) : kind.toNat < 8 ↔ kind.getLsbD 3 = false := by
  revert kind; decide

/-! ## The fields R75 allows -/

/-- The opcodes of the map (R71). -/
def mapOpcodes : List (BitVec 8) :=
  [0x00#8, 0x01#8, 0x02#8, 0x10#8, 0x11#8, 0x12#8, 0x13#8, 0x20#8, 0x21#8, 0x22#8, 0x30#8, 0x31#8]

/-- The opcodes that give F a meaning (R73). -/
def flagOpcodes : List (BitVec 8) := [0x10#8, 0x11#8, 0x12#8, 0x13#8, 0x22#8, 0x31#8]

/-- R75's conditions on the fields of a word, apart from its reserved bits. -/
def LegalFields (op : BitVec 8) (flag : Bool) (kind : BitVec 4) : Prop :=
  op ∈ mapOpcodes ∧ (op ∉ flagOpcodes → flag = false) ∧ (op ≠ 0x31#8 → kind = 0#4) ∧
    (op = 0x31#8 → kind.getLsbD 3 = false)

/-- R75's conditions, by the fields of the word. -/
theorem wellFormedWord_iff (w : Word) :
    WellFormedWord w ↔
      (reservedLow w = 0#3 ∧ reservedHigh w = 0#16) ∧ LegalFields (opcodeField w) (flagField w) (kindField w) := by
  have hbit : (kindField w).getLsbD 3 = w.getLsbD 15 := by simp [kindField]
  simp only [WellFormedWord, LegalFields, hbit, mapOpcodes, flagOpcodes, List.mem_cons, List.not_mem_nil,
    ← BitVec.toNat_inj, ne_eq]
  exact ⟨fun ⟨hop, hlow, hhigh, hrest⟩ => ⟨⟨hlow, hhigh⟩, hop, hrest⟩,
    fun ⟨⟨hlow, hhigh⟩, hop, hrest⟩ => ⟨hop, hlow, hhigh, hrest⟩⟩

/-- Legal fields are those of a command, by the opcode map (R71). -/
theorem exists_hasFields_of_legalFields {op : BitVec 8} {flag : Bool} {kind : BitVec 4} (h : LegalFields op flag kind) :
    ∃ i, HasFields i op flag kind := by
  obtain ⟨hop, hflag, hkind, hbar⟩ := h
  simp only [mapOpcodes, List.mem_cons, List.not_mem_nil, or_false] at hop
  rcases hop with rfl | rfl | rfl | rfl | rfl | rfl | rfl | rfl | rfl | rfl | rfl | rfl
  · exact ⟨.nop, rfl, rfl, (hflag (by decide)).symm, (hkind (by decide)).symm⟩
  · exact ⟨.rsEcc200, rfl, rfl, (hflag (by decide)).symm, (hkind (by decide)).symm⟩
  · exact ⟨.pdfEcc, rfl, rfl, (hflag (by decide)).symm, (hkind (by decide)).symm⟩
  · exact ⟨.ckMod10 flag, rfl, rfl, rfl, (hkind (by decide)).symm⟩
  · exact ⟨.ckMod103 flag, rfl, rfl, rfl, (hkind (by decide)).symm⟩
  · exact ⟨.ckMod6 flag, rfl, rfl, rfl, (hkind (by decide)).symm⟩
  · exact ⟨.ckFcs flag, rfl, rfl, rfl, (hkind (by decide)).symm⟩
  · exact ⟨.dmPlace, rfl, rfl, (hflag (by decide)).symm, (hkind (by decide)).symm⟩
  · exact ⟨.dmFrame, rfl, rfl, (hflag (by decide)).symm, (hkind (by decide)).symm⟩
  · exact ⟨.gridEmit flag, rfl, rfl, rfl, (hkind (by decide)).symm⟩
  · exact ⟨.pdfRows, rfl, rfl, (hflag (by decide)).symm, (hkind (by decide)).symm⟩
  · exact ⟨.barWalk flag kind, decide_eq_true ((kind_toNat_lt_eight_iff kind).2 (hbar rfl)), rfl, rfl, rfl⟩

/-! ## The decoder on the fields -/

/-- The decoder reads a command from its own fields. -/
theorem decodeFields_of_hasFields {i : Instr} {op : BitVec 8} {flag : Bool} {kind : BitVec 4}
    (h : HasFields i op flag kind) : decodeFields op flag kind = .ok i := by
  obtain ⟨hwf, rfl, rfl, rfl⟩ := h
  cases i with
  | barWalk black1 kind =>
    exact barWalkForm_eq_ok_iff.2 ⟨(kind_toNat_lt_eight_iff kind).1 (of_decide_eq_true hwf), rfl⟩
  | _ => rfl

theorem legalFields_of_plainForm {op : BitVec 8} {flag : Bool} {kind : BitVec 4} {i j : Instr}
    (hop : op ∈ mapOpcodes ∧ op ≠ 0x31#8) (h : plainForm flag kind j = .ok i) : LegalFields op flag kind := by
  obtain ⟨hflag, hkind, -⟩ := plainForm_eq_ok_iff.1 h
  exact ⟨hop.1, fun _ => hflag, fun _ => hkind, fun hbar => absurd hbar hop.2⟩

theorem legalFields_of_flagForm {op : BitVec 8} {flag : Bool} {kind : BitVec 4} {i j : Instr}
    (hop : op ∈ mapOpcodes ∧ op ∈ flagOpcodes ∧ op ≠ 0x31#8) (h : flagForm kind j = .ok i) :
    LegalFields op flag kind := by
  obtain ⟨hmap, htakes, hne⟩ := hop
  obtain ⟨hkind, -⟩ := flagForm_eq_ok_iff.1 h
  exact ⟨hmap, fun hnot => absurd htakes hnot, fun _ => hkind, fun hbar => absurd hbar hne⟩

/-- An opcode outside the map is reserved (R76). -/
theorem decodeFields_of_not_mem {op : BitVec 8} (hop : op ∉ mapOpcodes) (flag : Bool) (kind : BitVec 4) :
    decodeFields op flag kind = .error .reservedOpcode := by
  simp only [mapOpcodes, List.mem_cons, List.not_mem_nil, or_false, not_or] at hop
  simp only [decodeFields, hop, if_false]

/-- The decoder accepts legal fields only: one case for each line of the opcode map (R71). -/
theorem legalFields_of_decodeFields {op : BitVec 8} {flag : Bool} {kind : BitVec 4} {i : Instr}
    (h : decodeFields op flag kind = .ok i) : LegalFields op flag kind := by
  by_cases hop : op ∈ mapOpcodes
  · simp only [mapOpcodes, List.mem_cons, List.not_mem_nil, or_false] at hop
    rcases hop with rfl | rfl | rfl | rfl | rfl | rfl | rfl | rfl | rfl | rfl | rfl | rfl
    · exact legalFields_of_plainForm (j := .nop) (by decide) h
    · exact legalFields_of_plainForm (j := .rsEcc200) (by decide) h
    · exact legalFields_of_plainForm (j := .pdfEcc) (by decide) h
    · exact legalFields_of_flagForm (j := .ckMod10 flag) (by decide) h
    · exact legalFields_of_flagForm (j := .ckMod103 flag) (by decide) h
    · exact legalFields_of_flagForm (j := .ckMod6 flag) (by decide) h
    · exact legalFields_of_flagForm (j := .ckFcs flag) (by decide) h
    · exact legalFields_of_plainForm (j := .dmPlace) (by decide) h
    · exact legalFields_of_plainForm (j := .dmFrame) (by decide) h
    · exact legalFields_of_flagForm (j := .gridEmit flag) (by decide) h
    · exact legalFields_of_plainForm (j := .pdfRows) (by decide) h
    · exact ⟨by decide, fun hnot => absurd (by decide) hnot, fun hne => absurd rfl hne,
        fun _ => (barWalkForm_eq_ok_iff.1 h).1⟩
  · rw [decodeFields_of_not_mem hop] at h
    cases h

/-- The decoder accepts the fields of R75, each set as the one command that has it. -/
theorem decodeFields_eq_ok_iff {op : BitVec 8} {flag : Bool} {kind : BitVec 4} {i : Instr} :
    decodeFields op flag kind = .ok i ↔ HasFields i op flag kind := by
  refine ⟨fun h => ?_, decodeFields_of_hasFields⟩
  obtain ⟨j, hj⟩ := exists_hasFields_of_legalFields (legalFields_of_decodeFields h)
  have hsame : j = i := Except.ok.inj ((decodeFields_of_hasFields hj).symm.trans h)
  exact hsame ▸ hj

/-! ## The decoder on words -/

/-- The reserved bits are checked first (R75). -/
theorem decode_eq_ok_iff {w : Word} {i : Instr} :
    decode w = .ok i ↔
      (reservedLow w = 0#3 ∧ reservedHigh w = 0#16) ∧
        decodeFields (opcodeField w) (flagField w) (kindField w) = .ok i := by
  unfold decode
  by_cases hres : reservedLow w = 0#3 ∧ reservedHigh w = 0#16
  · rw [if_neg (by simp [hres]), eq_true hres, true_and]
  · rw [if_pos (by simpa only [not_and_or] using hres)]
    simp [hres]

/-- Settles O2: the decoder accepts the fields of a command, and the word with them is the command's word. -/
theorem decodeIffCommandWord : Obligations.DecodeIffCommandWord := by
  intro w i
  rw [decode_eq_ok_iff, decodeFields_eq_ok_iff, wellFormed_and_encode_eq_iff]

/-- Settles O1: each word is the command word of its command. -/
theorem sampleWordsDecode : Obligations.SampleWordsDecode :=
  ⟨(decodeIffCommandWord _ _).2 ⟨rfl, rfl⟩, (decodeIffCommandWord _ _).2 ⟨rfl, rfl⟩,
    (decodeIffCommandWord _ _).2 ⟨rfl, rfl⟩, (decodeIffCommandWord _ _).2 ⟨rfl, rfl⟩,
    (decodeIffCommandWord _ _).2 ⟨rfl, rfl⟩⟩

/-- The words that decode are those of R75. -/
theorem exists_decode_iff_wellFormedWord (w : Word) : (∃ i, decode w = .ok i) ↔ WellFormedWord w := by
  simp only [decode_eq_ok_iff, exists_and_left, wellFormedWord_iff]
  exact and_congr_right' ⟨fun ⟨_, h⟩ => legalFields_of_decodeFields h,
    fun h => (exists_hasFields_of_legalFields h).imp fun _ => decodeFields_of_hasFields⟩

/-! ## The engine's move -/

theorem engineStep_of_decode {s : State} {w : Word} {i : Instr} (hbusy : s.engine = .busy w)
    (hdecode : decode w = .ok i) : engineStep s = exec i s := by
  simp only [engineStep, hbusy, hdecode]

theorem engineStep_of_not_decode {s : State} {w : Word} (hbusy : s.engine = .busy w)
    (hnot : ¬ ∃ i, decode w = .ok i) : engineStep s = .next (badCommand w s) := by
  cases hdecode : decode w with
  | ok i => exact absurd ⟨i, hdecode⟩ hnot
  | error e => simp only [engineStep, hbusy, hdecode]

/-- BAD_COMMAND leaves the word in RESULT0 (R75). -/
theorem badCommand_eq_errState (w : Word) (s : State) : badCommand w s = errState s .badCommand w.toNat 0 := by
  simp only [badCommand, raiseError, flagsError, errState, word, resultWord_of_lt _ w.isLt,
    resultWord_of_lt 0 (Nat.two_pow_pos 32)]

/-- Settles O3: the words that decode are the well-formed ones, and any other runs BAD_COMMAND. -/
theorem illFormedWordEndsWithBadCommand : Obligations.IllFormedWordEndsWithBadCommand := by
  intro s w hbusy
  refine ⟨fun hwf => ?_, fun hnot => ?_⟩
  · obtain ⟨i, hdecode⟩ := (exists_decode_iff_wellFormedWord w).2 hwf
    exact ⟨i, hdecode, engineStep_of_decode hbusy hdecode⟩
  · rw [engineStep_of_not_decode hbusy (mt (exists_decode_iff_wellFormedWord w).1 hnot), badCommand_eq_errState]

theorem engineStep_of_idle {s : State} (hidle : s.engine = .idle) : engineStep s = .next s := by
  simp only [engineStep, hidle]

/-! ## The moves of the list -/

/-- With no move listed the engine moves (log entry 1). -/
theorem step_of_turns_nil {s : State} (hturns : s.turns = []) : step s = engineStep s := by
  simp only [step, hturns]

theorem step_of_turns_engine {s : State} {rest : List Turn} (hturns : s.turns = .engine :: rest) :
    step s = engineStep { s with turns := rest } := by
  simp only [step, hturns]

theorem step_of_turns_write {s : State} {addr : HostAddr} {size : Nat} {wdata : Word} {rest : List Turn}
    (hturns : s.turns = .write addr size wdata :: rest) :
    step s = .next (portWrite { s with turns := rest } addr size wdata) := by
  simp only [step, hturns]

/-- Settles O4: the engine's move, listed or not, in its modes BUSY and IDLE. -/
theorem stepRunsDecodedCommand : Obligations.StepRunsDecodedCommand := by
  refine ⟨fun s w i rest hbusy hdecode => ⟨fun hnil => ?_, step_engine_of_decode hbusy hdecode⟩,
    fun s rest hidle => ⟨fun hnil => ?_, fun hturns => ?_⟩⟩
  · rw [step_of_turns_nil hnil, engineStep_of_decode hbusy hdecode]
  · rw [step_of_turns_nil hnil, engineStep_of_idle hidle]
  · rw [step_of_turns_engine hturns]
    exact engineStep_of_idle hidle

/-- CMD is locked out in modes INIT and BUSY (R57 c). -/
theorem refused_cmd {s : State} (hne : s.engine ≠ .idle) : Refused s 0x00010#20 4 :=
  .inr (.inr ⟨hne, by unfold OpenWhileBusy; decide⟩)

/-- Settles O5: CMD answers and issues in mode IDLE (R72), and R57 c refuses the write in the others. -/
theorem cmdWriteIssuesOnlyWhenIdle : Obligations.CmdWriteIssuesOnlyWhenIdle := by
  intro s w rest hturns
  rw [step_of_turns_write hturns]
  refine ⟨fun hidle => ?_, fun hne => ?_⟩
  · exact congrArg _ (portWrite_of_names (s := { s with turns := rest }) (t := .reg .cmd) w (by decide) (.inl hidle))
  · obtain ⟨hrefused, -⟩ := slverrExactlyWhenRefused { s with turns := rest } 0x00010#20 4 w
    rw [(hrefused (refused_cmd hne)).2]

end Sys2Proof.Proofs

end

section

/-! PROOF. The common part of every command (40_command_common.md): the states it ends in, in the words of the statements;
NOP; and the frame of an error. -/

namespace Sys2Proof.Proofs

open Sys2Proof Sys2Proof.Machine Sys2Proof.Claims

/-! ## The ends of a command, in the words of the statements -/

theorem complete_eq_doneState {r0 r1 : Nat} (h0 : r0 < 2 ^ 32) (h1 : r1 < 2 ^ 32) (s : State) :
    complete r0 r1 s = doneState s r0 r1 := by
  simp only [complete, flagsComplete, doneState, word, resultWord_of_lt _ h0, resultWord_of_lt _ h1]

theorem raiseError_eq_errState {r0 r1 : Nat} (h0 : r0 < 2 ^ 32) (h1 : r1 < 2 ^ 32) (code : ErrCode) (s : State) :
    raiseError code r0 r1 s = errState s code r0 r1 := by
  simp only [raiseError, flagsError, errState, word, resultWord_of_lt _ h0, resultWord_of_lt _ h1]

/-- Settles O29: NOP is a completion and nothing before it (R91). -/
theorem nopCompletes : Obligations.NopCompletes := fun s =>
  congrArg Host.Outcome.next (complete_eq_doneState (by decide) (by decide) s)

/-- Settles O54: of the ends of a command that goes on, a completion has no error code, an error of the checks touches no RAM,
and only DM_PLACE has an error that does. -/
theorem errorsLeaveRamsAsTheyWere : Obligations.ErrorsLeaveRamsAsTheyWere := by
  intro i s t hi h hcode
  have hends := exec_ends i s
  rw [h] at hends
  cases hends with
  | completes u r0 r1 hu => exact absurd rfl hcode
  | errs code r0 r1 hc => exact ⟨rfl, rfl, rfl, rfl, rfl, rfl, rfl⟩
  | placementErrs code r0 r1 rows cols hc hplace => exact absurd hplace hi

end Sys2Proof.Proofs

end

section

/-! PROOF. A command depends on what it reads alone (10_state.md R46, 30_encoding.md R77, 40_command_common.md R90): from
two states that agree there it does one and the same thing, `ActsAlike`. -/

namespace Sys2Proof.Proofs

open Sys2Proof Sys2Proof.Machine Sys2Proof.Claims

/-! ## Doing the same from two states -/

/-- The writes of a command before it completes, as data that names no state: a block of CW, a rectangle of a grid, or events
and the EV_WPTR after them (R39 to R41). -/
inductive Output where
  | none
  | cwBlock (lo : Nat) (vs : List (BitVec 16))
  | gaRect (rows cols : Nat) (f : Nat → Nat → Cell)
  | gbRect (rows cols : Nat) (f : Nat → Nat → Cell)
  | events (lo : Nat) (evs : List Word) (wptr : BitVec 14)

/-- The state after the writes. -/
def Output.apply (o : Output) (s : State) : State :=
  match o with
  | .none => s
  | .cwBlock lo vs => { s with cw := s.cw.writeBlock lo vs }
  | .gaRect rows cols f => { s with ga := s.ga.writeRect rows cols f }
  | .gbRect rows cols f => { s with gb := s.gb.writeRect rows cols f }
  | .events lo evs wptr => { s with ev := s.ev.writeBlock lo evs, evWptr := wptr }

/-- The ends of one command from `s` and from `u` are the same act: the same completion with the same writes, the same error
(with the same free draw where DM_PLACE loses GA's region), or the same fault. -/
inductive ActsAlike (s u : State) : Host.Outcome State Fault Refusal → Host.Outcome State Fault Refusal → Prop
  | completes (o : Output) (r0 r1 : Nat) :
      ActsAlike s u (.next (complete r0 r1 (o.apply s))) (.next (complete r0 r1 (o.apply u)))
  | errs (code : ErrCode) (r0 r1 : Nat) : ActsAlike s u (.next (raiseError code r0 r1 s)) (.next (raiseError code r0 r1 u))
  | placementErrs (code : ErrCode) (r0 r1 rows cols : Nat) (hdraws : s.draws = u.draws) :
      ActsAlike s u (.next (raiseError code r0 r1 (scrambleGa s rows cols)))
        (.next (raiseError code r0 r1 (scrambleGa u rows cols)))
  | faults (f : Fault) : ActsAlike s u (.fault f) (.fault f)

section

variable {s u : State}

/-- Work that stops, stops both commands alike. -/
theorem actsAlike_halt (h : Halt) : ActsAlike s u (finish s (.error h)) (finish u (.error h)) := by
  cases h with
  | error code r0 r1 => exact .errs code r0 r1
  | fault f => exact .faults f

theorem actsAlike_complete (o : Output) (r0 r1 : Nat) :
    ActsAlike s u (finish s (.ok (complete r0 r1 (o.apply s)))) (finish u (.ok (complete r0 r1 (o.apply u)))) :=
  .completes o r0 r1

/-- Commands whose work begins alike act alike if they do after it. -/
theorem actsAlike_bind {α : Type} {x y : Work α} {f g : α → Work State} (hxy : x = y)
    (hfg : ∀ a, x = .ok a → ActsAlike s u (finish s (f a)) (finish u (g a))) :
    ActsAlike s u (finish s (x >>= f)) (finish u (y >>= g)) := by
  subst hxy
  cases x with
  | ok a => exact hfg a rfl
  | error h => exact actsAlike_halt h

/-- The emission of one event plan from one EV_WPTR (R92, R95). -/
theorem actsAlike_emit (hwptr : s.evWptr = u.evWptr) (plan : EventPlan) :
    ActsAlike s u (finish s (emit s plan)) (finish u (emit u plan)) := by
  unfold emit
  rw [hwptr]
  exact actsAlike_bind rfl fun _ _ => actsAlike_complete (.events _ _ _) _ _

end

/-! ## What follows from doing the same -/

/-- The same block written to two RAMs: each entry is the written one in both, or is what it was in both. -/
theorem read_writeBlock_alike {α : Type} (m n : Ram α) (lo : Nat) (vs : List α) (i : Nat) :
    (m.writeBlock lo vs).read i = (n.writeBlock lo vs).read i ∨
      ((m.writeBlock lo vs).read i = m.read i ∧ (n.writeBlock lo vs).read i = n.read i) := by
  simp only [Ram.read_writeBlock]
  split
  · exact .inl rfl
  · exact .inr ⟨rfl, rfl⟩

theorem read_writeRect_alike (m n : Ram Cell) (rows cols : Nat) (f : Nat → Nat → Cell) (i : Nat) :
    (m.writeRect rows cols f).read i = (n.writeRect rows cols f).read i ∨
      ((m.writeRect rows cols f).read i = m.read i ∧ (n.writeRect rows cols f).read i = n.read i) := by
  unfold Ram.writeRect
  induction rows with
  | zero => exact .inr ⟨rfl, rfl⟩
  | succ r ih =>
    simp only [List.range_succ, List.foldl_append, List.foldl_cons, List.foldl_nil, Ram.read_writeBlock]
    split
    · exact .inl rfl
    · exact ih

/-- Entry `idx` of RAM `name` is the same in `t` and `v`, or in each is what it was before, in `s` and in `u`. -/
def EntryAlike (s u t v : State) (name : RamName) (idx : Nat) : Prop :=
  entryOf t name idx = entryOf v name idx ∨
    (entryOf t name idx = entryOf s name idx ∧ entryOf v name idx = entryOf u name idx)

theorem entryAlike_apply (o : Output) (s u : State) (name : RamName) (idx : Nat) :
    EntryAlike s u (o.apply s) (o.apply u) name idx := by
  have hmap {α : Type} {a b c d : Option α} (f : α → Nat) (h : a = b ∨ (a = c ∧ b = d)) :
      a.map f = b.map f ∨ (a.map f = c.map f ∧ b.map f = d.map f) :=
    h.imp (congrArg _) (And.imp (congrArg _) (congrArg _))
  cases o with
  | none => exact .inr ⟨rfl, rfl⟩
  | cwBlock lo vs =>
    cases name with
    | cw => exact hmap _ (read_writeBlock_alike ..)
    | ga | gb | ev | bt | pt => exact .inr ⟨rfl, rfl⟩
  | gaRect rows cols f =>
    cases name with
    | ga => exact hmap _ (read_writeRect_alike ..)
    | cw | gb | ev | bt | pt => exact .inr ⟨rfl, rfl⟩
  | gbRect rows cols f =>
    cases name with
    | gb => exact hmap _ (read_writeRect_alike ..)
    | cw | ga | ev | bt | pt => exact .inr ⟨rfl, rfl⟩
  | events lo evs wptr =>
    cases name with
    | ev => exact hmap _ (read_writeBlock_alike ..)
    | cw | ga | gb | bt | pt => exact .inr ⟨rfl, rfl⟩

theorem evWptr_apply (o : Output) (s u : State) :
    (o.apply s).evWptr = (o.apply u).evWptr ∨ ((o.apply s).evWptr = s.evWptr ∧ (o.apply u).evWptr = u.evWptr) := by
  cases o with
  | none | cwBlock _ _ | gaRect _ _ _ | gbRect _ _ _ => exact .inr ⟨rfl, rfl⟩
  | events lo evs wptr => exact .inl rfl

/-- The region DM_PLACE loses takes the same free values where both states name the same draw (R89, log entry 8). -/
theorem scrambleGa_eq_apply {s u : State} (hdraws : s.draws = u.draws) (rows cols : Nat) :
    ∃ o : Output, ∃ d, scrambleGa s rows cols = { o.apply s with draws := d } ∧
      scrambleGa u rows cols = { o.apply u with draws := d } :=
  ⟨.gaRect rows cols fun r c => cellOfCode (Config.freeGa s.draws (cellIndex r c)), s.draws + 1, rfl,
    by rw [hdraws]; rfl⟩

theorem endsAlike_of_actsAlike {i : Instr} {s u : State} (h : ActsAlike s u (exec i s) (exec i u)) : EndsAlike i s u := by
  unfold EndsAlike
  generalize exec i s = a, exec i u = b at h
  cases h with
  | completes o r0 r1 => exact ⟨rfl, rfl, rfl, evWptr_apply o s u, entryAlike_apply o s u⟩
  | errs code r0 r1 => exact ⟨rfl, rfl, rfl, .inr ⟨rfl, rfl⟩, fun _ _ => .inr ⟨rfl, rfl⟩⟩
  | placementErrs code r0 r1 rows cols hdraws =>
    obtain ⟨o, d, hs, hu⟩ := scrambleGa_eq_apply hdraws rows cols
    rw [hs, hu]
    exact ⟨rfl, rfl, rfl, evWptr_apply o s u, entryAlike_apply o s u⟩
  | faults f => rfl

/-- Acting alike from a state and from the same state with another history, a command delivers the same (R46, R90). -/
theorem outputsOf_of_actsAlike {s : State} {r0 r1 : Word} {code : ErrCode} {done err irqen : Bool} {lastop : BitVec 8}
    {turns : List Turn} {reply : Reply} {epoch : Nat} {x y : Host.Outcome State Fault Refusal}
    (h : ActsAlike s (otherHistory s r0 r1 code done err irqen lastop turns reply epoch) x y) :
    outputsOf y = outputsOf x := by
  cases h with
  | completes o r0' r1' => cases o <;> rfl
  | errs | placementErrs | faults => rfl

/-! ## Reads of what both states hold -/

theorem work_bind_congr {α β : Type} {x y : Work α} {f g : α → Work β} (hxy : x = y)
    (hfg : ∀ a, x = .ok a → f a = g a) : (x >>= f) = (y >>= g) := by
  subst hxy
  cases x with
  | ok a => exact hfg a rfl
  | error h => rfl

theorem mapM_congr_of_mem {α β : Type} {f g : α → Work β} {l : List α} (hfg : ∀ a ∈ l, f a = g a) :
    l.mapM f = l.mapM g := by
  induction l with
  | nil => rfl
  | cons a l ih =>
    obtain ⟨ha, hl⟩ := List.forall_mem_cons.1 hfg
    rw [List.mapM_cons, List.mapM_cons, ha, ih hl]

theorem readEntry_congr {α : Type} {name : RamName} {m n : Ram α} {i : Nat} (h : m.read i = n.read i) :
    readEntry name m i = readEntry name n i := by
  rw [readEntry, readEntry, h]

section

variable {s u : State}

theorem lenN_congr (h : SameElements s u) : lenN s = lenN u := congrArg BitVec.toNat h.1

/-- Elements among CW[0, N). -/
theorem readRanged_congr (h : SameElements s u) {limit : Nat} (n i : Nat) (hn : i + n ≤ lenN s) :
    readRanged s limit i n = readRanged u limit i n := by
  induction n generalizing i with
  | zero => rfl
  | succ n ih =>
    obtain ⟨-, hcw⟩ := id h
    have hread : readCw s i = readCw u i := by
      rw [readCw, readCw, readEntry_congr (hcw i (show i < lenN s by omega))]
    rw [readRanged, readRanged, hread, ih (i + 1) (by omega)]

/-- All of CW[0, N). -/
theorem readElements_congr (h : SameElements s u) {limit : Nat} :
    readRanged s limit 0 (lenN s) = readRanged u limit 0 (lenN u) := by
  rw [← lenN_congr h]
  exact readRanged_congr h _ 0 (by omega)

/-- What reading the elements delivers is the elements. -/
theorem eq_elementsOf {limit : Nat} {xs : List Nat} (h : readRanged s limit 0 (lenN s) = .ok xs) : xs = elementsOf s := by
  obtain ⟨hlen, hxs⟩ := (readRanged_eq_ok ..).1 h
  refine List.ext_getElem (by simp [elementsOf, hlen, lenN]) fun j hj _ => ?_
  obtain ⟨hread, -⟩ := hxs j (hlen ▸ hj)
  rw [Nat.zero_add, List.getElem?_eq_getElem hj, Option.map_eq_some_iff] at hread
  obtain ⟨v, hv, hvj⟩ := hread
  simp [elementsOf, cwNum, hv, hvj]

/-- Every element delivered stands in CW[0, N). -/
theorem exists_read_of_mem {limit x : Nat} {xs : List Nat} (h : readRanged s limit 0 (lenN s) = .ok xs) (hx : x ∈ xs) :
    ∃ j v, j < lenN s ∧ s.cw.read j = some v ∧ v.toNat = x := by
  obtain ⟨hlen, hxs⟩ := (readRanged_eq_ok ..).1 h
  obtain ⟨j, hj, rfl⟩ := List.mem_iff_getElem.1 hx
  obtain ⟨hread, -⟩ := hxs j (hlen ▸ hj)
  rw [Nat.zero_add, List.getElem?_eq_getElem hj, Option.map_eq_some_iff] at hread
  obtain ⟨v, hv, hvj⟩ := hread
  exact ⟨j, v, hlen ▸ hj, hv, hvj⟩

/-- The cells of a region inside the grid. -/
theorem readRows_congr {name : RamName} {g h : Ram Cell} {rows cols : Nat} (hsame : SameCells g h rows cols)
    (hrows : rows ≤ Config.gridDim) (hcols : cols ≤ Config.gridDim) :
    readRows name g cols 0 rows = readRows name h cols 0 rows := by
  simp only [readRows_eq_mapM, readRow_eq_mapM]
  refine mapM_congr_of_mem fun r hr => mapM_congr_of_mem fun c hc => ?_
  simp only [List.mem_range'_1, Nat.zero_add, Nat.zero_le, true_and] at hr hc
  have hcell : g.read (cellIndex r c) = h.read (cellIndex r c) := by
    rw [cellIndex, Nat.mul_comm]
    exact hsame r c hr (hr.trans_le hrows) hc (hc.trans_le hcols)
  rw [readSetCell, readSetCell, readEntry_congr hcell]

theorem readBarEntries_congr {xs : List Nat} (h : ∀ x ∈ xs, s.bt.read x = u.bt.read x) :
    readBarEntries s xs = readBarEntries u xs := by
  simp only [readBarEntries_eq_mapM]
  refine mapM_congr_of_mem fun x hx => ?_
  rw [readBarEntry, readBarEntry, readEntry_congr (h x hx)]

/-- The patterns of the codewords of the rows (R150). -/
theorem readRowPatterns_congr {data : List Nat} {r c level : Nat} (hlen : data.length = r * c)
    (h : ∀ y v, y < r → v ∈ rowOfSymbol data r c level y →
      s.pt.read ((y % 3) * 1024 + v) = u.pt.read ((y % 3) * 1024 + v)) :
    readRowPatterns s data r c level 0 r = readRowPatterns u data r c level 0 r := by
  simp only [readRowPatterns_eq_mapM, readPatterns_eq_mapM]
  refine mapM_congr_of_mem fun y hy => mapM_congr_of_mem fun v hv => ?_
  have hy : y < r := by simpa using hy
  rw [rowCodewords_eq hlen hy] at hv
  have hentry : s.pt.read (ptIndex (y % Config.pdfClusters) v) = u.pt.read (ptIndex (y % Config.pdfClusters) v) := h y v hy hv
  rw [readPattern, readPattern, readEntry_congr hentry]

/-! ## Each command acts alike -/

theorem ckMod10_alike {verify : Bool} (h : SameElements s u) :
    ActsAlike s u (execCkMod10 verify s) (execCkMod10 verify u) :=
  actsAlike_bind (by rw [lenN_congr h]) fun _ _ => actsAlike_bind (readElements_congr h) fun _ _ =>
    actsAlike_bind rfl fun _ _ => actsAlike_complete .none _ _

theorem ckMod103_alike {verify : Bool} (h : SameElements s u) (hw0 : s.c128w0 = u.c128w0) :
    ActsAlike s u (execCkMod103 verify s) (execCkMod103 verify u) := by
  unfold execCkMod103
  rw [hw0]
  exact actsAlike_bind (by rw [lenN_congr h]) fun _ _ => actsAlike_bind (readElements_congr h) fun _ _ =>
    actsAlike_bind rfl fun _ _ => actsAlike_complete .none _ _

theorem ckMod6_alike {verify : Bool} (h : SameElements s u) (hlit : s.rmlit = u.rmlit) :
    ActsAlike s u (execCkMod6 verify s) (execCkMod6 verify u) := by
  unfold execCkMod6
  rw [hlit]
  exact actsAlike_bind (by rw [lenN_congr h]) fun _ _ => actsAlike_bind (readElements_congr h) fun _ _ =>
    actsAlike_bind rfl fun _ _ => actsAlike_complete .none _ _

theorem ckFcs_alike {verify : Bool} (h : SameElements s u) (hinit : s.fcsInit = u.fcsInit) :
    ActsAlike s u (execCkFcs verify s) (execCkFcs verify u) := by
  unfold execCkFcs
  rw [hinit]
  refine actsAlike_bind (by rw [lenN_congr h]) fun _ hlen => ?_
  simp only [require_eq_ok, decide_eq_true_eq] at hlen
  exact actsAlike_bind (readRanged_congr h _ _ (by omega)) fun _ _ =>
    actsAlike_bind (readRanged_congr h _ _ (by omega)) fun _ _ =>
    actsAlike_bind rfl fun _ _ => actsAlike_complete .none _ _

theorem rsEcc200_alike (h : SameElements s u) (h1 : s.arg1 = u.arg1) (h2 : s.arg2 = u.arg2) (hgf : s.gf = u.gf) :
    ActsAlike s u (execRsEcc200 s) (execRsEcc200 u) := by
  have hE : arg1N s = arg1N u := congrArg BitVec.toNat h1
  have hB : arg2N s = arg2N u := congrArg BitVec.toNat h2
  have hread {limit : Nat} : readRanged s limit 0 (lenN u) = _ := lenN_congr h ▸ readElements_congr h
  unfold execRsEcc200
  rw [hE, hB, lenN_congr h]
  exact actsAlike_bind rfl fun _ _ => actsAlike_bind rfl fun _ _ => actsAlike_bind hread fun _ _ =>
    actsAlike_bind (by rw [readTables, readTables, hgf]) fun _ _ => actsAlike_complete (.cwBlock _ _) _ _

theorem pdfEcc_alike (h : SameElements s u) (h1 : s.arg1 = u.arg1) : ActsAlike s u (execPdfEcc s) (execPdfEcc u) := by
  have hlevel : arg1N s = arg1N u := congrArg BitVec.toNat h1
  have hread {limit : Nat} : readRanged s limit 0 (lenN u) = _ := lenN_congr h ▸ readElements_congr h
  unfold execPdfEcc
  rw [hlevel, lenN_congr h]
  exact actsAlike_bind rfl fun _ _ => actsAlike_bind rfl fun _ _ => actsAlike_bind hread fun _ _ =>
    actsAlike_complete (.cwBlock _ _) _ _

theorem dmPlace_alike (h : SameElements s u) (h1 : s.arg1 = u.arg1) (h2 : s.arg2 = u.arg2) (hdraws : s.draws = u.draws) :
    ActsAlike s u (execDmPlace s) (execDmPlace u) := by
  have hR : arg1N s = arg1N u := congrArg BitVec.toNat h1
  have hC : arg2N s = arg2N u := congrArg BitVec.toNat h2
  have hread {limit : Nat} : readRanged s limit 0 (lenN u) = _ := lenN_congr h ▸ readElements_congr h
  have hoperands : placeOperands s = placeOperands u := by
    unfold placeOperands
    rw [hR, hC, lenN_congr h, hread]
  unfold execDmPlace
  rw [hoperands, hR, hC, lenN_congr h]
  cases placeOperands u with
  | error e => exact actsAlike_halt e
  | ok data =>
    cases placement (lenN u) (arg1N u) (arg2N u) with
    | ok p => exact actsAlike_complete (.gaRect _ _ _) _ _
    | error e =>
      cases e with
      | error code r0 r1 => exact .placementErrs code r0 r1 _ _ hdraws
      | fault f => exact .faults f

theorem dmFrame_alike (h1 : s.arg1 = u.arg1) (h2 : s.arg2 = u.arg2) (h3 : s.arg3 = u.arg3)
    (hcells : SameCells s.ga u.ga (s.arg3.toNat % 65536 * s.arg1.toNat) (s.arg3.toNat / 65536 * s.arg2.toNat)) :
    ActsAlike s u (execDmFrame s) (execDmFrame u) := by
  have hh : arg1N s = arg1N u := congrArg BitVec.toNat h1
  have hw : arg2N s = arg2N u := congrArg BitVec.toNat h2
  have hlow : arg3Low s = arg3Low u := by rw [arg3Low, arg3Low, h3]
  have hhigh : arg3High s = arg3High u := by rw [arg3High, arg3High, h3]
  rw [← arg3Low_eq, ← arg3High_eq] at hcells
  have hcells : SameCells s.ga u.ga (arg3Low s * arg1N s) (arg3High s * arg2N s) := hcells
  rw [hlow, hhigh, hh, hw] at hcells
  unfold execDmFrame
  rw [hh, hw, hlow, hhigh]
  refine actsAlike_bind rfl fun _ hok => ?_
  obtain ⟨hrows, hcols⟩ := frameGeometryOk_le ((require_eq_ok ..).1 hok)
  rw [Nat.mul_add] at hrows hcols
  exact actsAlike_bind (readRows_congr hcells (by omega) (by omega)) fun _ _ => actsAlike_complete (.gbRect _ _ _) _ _

/-- Emitting commands with the same plan and the same EV_WPTR act alike. -/
theorem actsAlike_emitting {p q : Work EventPlan} (hplan : p = q) (hwptr : s.evWptr = u.evWptr) :
    ActsAlike s u (finish s (p >>= emit s)) (finish u (q >>= emit u)) :=
  actsAlike_bind hplan fun plan _ => actsAlike_emit hwptr plan

theorem gridEmitPlan_congr {selA : Bool} (h1 : s.arg1 = u.arg1) (h2 : s.arg2 = u.arg2)
    (hcells : SameCells (if selA then s.ga else s.gb) (if selA then u.ga else u.gb) (arg1N s) (arg2N s)) :
    gridEmitPlan selA s = gridEmitPlan selA u := by
  have hR : arg1N s = arg1N u := congrArg BitVec.toNat h1
  have hC : arg2N s = arg2N u := congrArg BitVec.toNat h2
  rw [hR, hC] at hcells
  unfold gridEmitPlan
  rw [hR, hC]
  refine work_bind_congr rfl fun _ hok => ?_
  rw [require_eq_ok, Bool.and_eq_true] at hok
  obtain ⟨hrows, hcols⟩ := hok
  have hread {name : RamName} := readRows_congr (name := name) hcells (inGrid_le hrows).2 (inGrid_le hcols).2
  cases selA with
  | true => exact work_bind_congr hread fun _ _ => rfl
  | false => exact work_bind_congr hread fun _ _ => rfl

theorem pdfRowsPlan_congr (h : SameElements s u) (h1 : s.arg1 = u.arg1) (h2 : s.arg2 = u.arg2) (h3 : s.arg3 = u.arg3)
    (hstart : s.pdfStart = u.pdfStart) (hstop : s.pdfStop = u.pdfStop)
    (hpt : ∀ y v, y < arg1N s → v ∈ rowOfSymbol (elementsOf s) (arg1N s) (arg2N s) (arg3N s) y →
      s.pt.read ((y % 3) * 1024 + v) = u.pt.read ((y % 3) * 1024 + v)) : pdfRowsPlan s = pdfRowsPlan u := by
  have hr : arg1N u = arg1N s := congrArg BitVec.toNat h1.symm
  have hc : arg2N u = arg2N s := congrArg BitVec.toNat h2.symm
  have hlevel : arg3N u = arg3N s := congrArg BitVec.toNat h3.symm
  unfold pdfRowsPlan
  rw [hr, hc, hlevel, hstart, hstop, ← lenN_congr h]
  refine work_bind_congr rfl fun _ _ => work_bind_congr rfl fun _ _ => work_bind_congr rfl fun _ hlen => ?_
  rw [require_eq_ok, decide_eq_true_eq] at hlen
  refine work_bind_congr (readRanged_congr h _ 0 (by omega)) fun data hdata => ?_
  obtain ⟨hcount, -⟩ := (readRanged_eq_ok ..).1 hdata
  rw [← eq_elementsOf hdata] at hpt
  exact work_bind_congr (readRowPatterns_congr (hcount.trans hlen) hpt) fun _ _ => rfl

theorem barWalkPlan_congr {black1 : Bool} {kind : BitVec 4} (h : SameElements s u)
    (hbt : ∀ j x, j < lenN s → s.cw.read j = some x → s.bt.read x.toNat = u.bt.read x.toNat) :
    barWalkPlan black1 kind s = barWalkPlan black1 kind u := by
  refine work_bind_congr (by rw [lenN_congr h]) fun _ _ => work_bind_congr (readElements_congr h) fun xs hxs => ?_
  refine work_bind_congr (readBarEntries_congr fun x hx => ?_) fun _ _ => rfl
  obtain ⟨j, v, hj, hv, rfl⟩ := exists_read_of_mem hxs hx
  exact hbt j v hj hv

theorem barWalk_alike {black1 : Bool} {kind : BitVec 4} (hplan : barWalkPlan black1 kind s = barWalkPlan black1 kind u)
    (hwptr : s.evWptr = u.evWptr) : ActsAlike s u (execBarWalk black1 kind s) (execBarWalk black1 kind u) := by
  unfold execBarWalk
  split
  · exact actsAlike_emitting hplan hwptr
  · exact .errs _ _ _

/-- A command acts alike from two states that agree in what it reads. -/
theorem exec_alike {i : Instr} (h : ReadsAgree i s u) : ActsAlike s u (exec i s) (exec i u) := by
  cases i with
  | nop => exact .completes .none 0 0
  | rsEcc200 =>
    obtain ⟨hcw, h1, h2, hgf⟩ := h
    exact rsEcc200_alike hcw h1 h2 hgf
  | pdfEcc =>
    obtain ⟨hcw, h1⟩ := h
    exact pdfEcc_alike hcw h1
  | ckMod10 verify => exact ckMod10_alike h
  | ckMod103 verify =>
    obtain ⟨hcw, hw0⟩ := h
    exact ckMod103_alike hcw hw0
  | ckMod6 verify =>
    obtain ⟨hcw, hlit⟩ := h
    exact ckMod6_alike hcw hlit
  | ckFcs verify =>
    obtain ⟨hcw, hinit⟩ := h
    exact ckFcs_alike hcw hinit
  | dmPlace =>
    obtain ⟨hcw, h1, h2, hdraws⟩ := h
    exact dmPlace_alike hcw h1 h2 hdraws
  | dmFrame =>
    obtain ⟨h1, h2, h3, hcells⟩ := h
    exact dmFrame_alike h1 h2 h3 hcells
  | gridEmit selA =>
    obtain ⟨h1, h2, hwptr, hcells⟩ := h
    exact actsAlike_emitting (gridEmitPlan_congr h1 h2 hcells) hwptr
  | pdfRows =>
    obtain ⟨hcw, h1, h2, h3, hstart, hstop, hwptr, hpt⟩ := h
    exact actsAlike_emitting (pdfRowsPlan_congr hcw h1 h2 h3 hstart hstop hpt) hwptr
  | barWalk black1 kind =>
    obtain ⟨hcw, hwptr, hbt⟩ := h
    exact barWalk_alike (barWalkPlan_congr hcw hbt) hwptr

end

/-- No command reads what earlier commands and the host's moves left behind (R46). -/
theorem readsAgree_otherHistory (i : Instr) (s : State) (r0 r1 : Word) (code : ErrCode) (done err irqen : Bool)
    (lastop : BitVec 8) (turns : List Turn) (reply : Reply) (epoch : Nat) :
    ReadsAgree i s (otherHistory s r0 r1 code done err irqen lastop turns reply epoch) := by
  cases i <;> simp [ReadsAgree, SameElements, SameCells, otherHistory]

/-- Settles O56: a command acts alike from states that agree in what it reads, and a history is nothing it reads. -/
theorem outputsDependOnlyOnInputs : Obligations.OutputsDependOnlyOnInputs :=
  ⟨fun _ _ _ h => endsAlike_of_actsAlike (exec_alike h),
    fun _ _ _ _ _ _ _ _ _ _ _ _ => outputsOf_of_actsAlike (exec_alike (readsAgree_otherHistory ..))⟩

end Sys2Proof.Proofs

end

section

/-! PROOF. The events of the emitting commands (40_command_common.md R92 to R95): the maximal runs of a list of
modules, and their ADD_BARs. -/

namespace Sys2Proof.Proofs

open Sys2Proof Sys2Proof.Machine Sys2Proof.Claims

/-! ## The runs of a list of modules (R94) -/

/-- The runs give back the modules they are the runs of. -/
theorem flatMap_runsFrom (black : Bool) (width : Nat) (ms : List Bool) :
    (runsFrom black width ms).flatMap (fun r => List.replicate r.2 r.1) = List.replicate width black ++ ms := by
  induction ms generalizing black width with
  | nil => simp [runsFrom]
  | cons b ms ih =>
    rw [runsFrom]
    split
    · next h => rw [h, ih, List.replicate_succ', List.append_assoc]; rfl
    · rw [List.flatMap_cons, ih]; rfl

theorem runsFrom_width {black : Bool} {width : Nat} {ms : List Bool} (hwidth : 1 ≤ width) :
    ∀ r ∈ runsFrom black width ms, 1 ≤ r.2 ∧ r.2 ≤ width + ms.length := by
  induction ms generalizing black width with
  | nil => simp [runsFrom, hwidth]
  | cons b ms ih =>
    rw [runsFrom, List.length_cons]
    split
    · intro r hr
      have := ih (Nat.le_add_left 1 width) r hr
      omega
    · refine List.forall_mem_cons.2 ⟨⟨hwidth, by omega⟩, fun r hr => ?_⟩
      have := ih le_rfl r hr
      omega

/-- The first run has the colour it began with, and neighbouring runs differ in colour. -/
theorem isChain_runsFrom (black : Bool) (width : Nat) (ms : List Bool) :
    (∃ n rest, runsFrom black width ms = (black, n) :: rest) ∧
      (runsFrom black width ms).IsChain (fun q r => q.1 ≠ r.1) := by
  induction ms generalizing black width with
  | nil => exact ⟨⟨width, [], rfl⟩, List.isChain_singleton _⟩
  | cons b ms ih =>
    rw [runsFrom]
    split
    · exact ih black (width + 1)
    · next h =>
      obtain ⟨⟨n, rest, hfirst⟩, hchain⟩ := ih b 1
      rw [hfirst] at hchain ⊢
      exact ⟨⟨width, _, rfl⟩, List.isChain_cons_cons.2 ⟨Ne.symm h, hchain⟩⟩

/-! ## The same of `runs` -/

theorem flatMap_runs (ms : List Bool) : (runs ms).flatMap (fun r => List.replicate r.2 r.1) = ms := by
  cases ms with
  | nil => rfl
  | cons b ms => exact flatMap_runsFrom b 1 ms

theorem runs_width {ms : List Bool} : ∀ r ∈ runs ms, 1 ≤ r.2 ∧ r.2 ≤ ms.length := by
  cases ms with
  | nil => exact fun _ hr => absurd hr List.not_mem_nil
  | cons b ms => rw [List.length_cons, Nat.add_comm]; exact runsFrom_width le_rfl

theorem isChain_runs (ms : List Bool) : (runs ms).IsChain (fun q r => q.1 ≠ r.1) := by
  cases ms with
  | nil => exact List.isChain_nil
  | cons b ms => exact (isChain_runsFrom b 1 ms).2

/-- The neighbours that differ, counted by their positions. -/
theorem changes_eq_length_filter (ms : List Bool) :
    changes ms = ((List.range (ms.length - 1)).filter (fun i => ms[i]? ≠ ms[i + 1]?)).length := by
  induction ms with
  | nil => rfl
  | cons a ms ih =>
    cases ms with
    | nil => rfl
    | cons b ms =>
      have hrange : (a :: b :: ms).length - 1 = ((b :: ms).length - 1) + 1 := by simp
      rw [hrange, List.range_succ_eq_map, List.filter_cons, List.filter_map, changes, ih]
      by_cases hab : a = b
      · simp [hab, Function.comp_def]
      · simp [hab, Function.comp_def, Nat.add_comm]

/-! ## ADD_BAR events (R93) -/

/-- An ADD_BAR's fields do not overlap while the width has 12 bits. -/
theorem evBar_toNat {black : Bool} {width : Nat} (h : width < 4096) :
    (evBar black width).toNat = (if black then 4096 else 0) + width := by
  have hor : (if black then 0x1000 else 0) ||| width = (if black then 4096 else 0) + width := by
    cases black with
    | true => exact (Nat.two_pow_add_eq_or_of_lt (i := 12) h 1).symm
    | false => simp
  rw [evBar, hor, word_ofNat_toNat]
  split <;> omega

theorem evBar_black {black : Bool} {width : Nat} (h : width < 4096) : (evBar black width).getLsbD 12 = black := by
  have hbit : (evBar black width).getLsbD 12 = decide ((evBar black width).toNat / 2 ^ 12 % 2 = 1) :=
    Nat.testBit_eq_decide_div_mod_eq
  rw [hbit, evBar_toNat h]
  cases black <;> simp <;> omega

theorem barModules_evBar {black : Bool} {width : Nat} (h : width < 4096) :
    barModules (evBar black width) = List.replicate width black := by
  rw [barModules, evBar_black h, evBar_toNat h]
  congr 1
  split <;> omega

theorem patternBits_getElem? {p n i : Nat} (hi : i < n) : (patternBits p n)[i]? = some (p.testBit (n - 1 - i)) := by
  induction n generalizing i with
  | zero => omega
  | succ n ih =>
    cases i with
    | zero => rfl
    | succ i =>
      rw [patternBits, List.getElem?_cons_succ, ih (by omega)]
      congr 2
      omega

/-- Settles O43: the bars of a list are the ADD_BARs of its runs, each of a width that has 12 bits. -/
theorem barsReproduceModules : Obligations.BarsReproduceModules := by
  refine ⟨fun p n i hi => ⟨length_patternBits p n, patternBits_getElem? hi⟩, by decide, fun ms hne hlen => ?_⟩
  have hwidth (r : Bool × Nat) (hr : r ∈ runs ms) : 1 ≤ r.2 ∧ r.2 < 4096 := by
    have := runs_width r hr
    omega
  refine ⟨?_, ?_, ?_, ?_⟩
  · calc (bars ms).flatMap barModules
        = (runs ms).flatMap (fun r => barModules (evBar r.1 r.2)) := List.flatMap_map ..
      _ = (runs ms).flatMap (fun r => List.replicate r.2 r.1) :=
        List.flatMap_congr fun r hr => barModules_evBar (hwidth r hr).2
      _ = ms := flatMap_runs ms
  · rw [length_bars ms hne, runCount, changes_eq_length_filter]
  · intro e he
    obtain ⟨r, hr, rfl⟩ := List.mem_map.1 he
    obtain ⟨h1, h12⟩ := hwidth r hr
    rw [evBar_toNat h12]
    split <;> omega
  · intro i hi
    have hi' : i + 1 < (runs ms).length := by simpa [bars] using hi
    have hbar (j : Nat) (hj : j < (runs ms).length) : ((bars ms).getD j 0#32).getLsbD 12 = (runs ms)[j].1 := by
      simp only [bars, List.getD_eq_getElem?_getD, List.getElem?_map, List.getElem?_eq_getElem hj, Option.map_some,
        Option.getD_some]
      exact evBar_black (hwidth _ (List.getElem_mem hj)).2
    rw [hbar i (by omega), hbar (i + 1) hi']
    exact List.isChain_iff_getElem.1 (isChain_runs ms) i hi'

end Sys2Proof.Proofs

end

section

/-! PROOF. The event counts of the emitting commands fit RESULT0, so that an EV_OVERFLOW reports them exactly (R95). -/

namespace Sys2Proof.Proofs

open Sys2Proof Sys2Proof.Machine Sys2Proof.Claims

/-! ## Counts -/

theorem sum_map_le {α : Type} {f : α → Nat} {l : List α} {b : Nat} (h : ∀ a ∈ l, f a ≤ b) :
    (l.map f).sum ≤ l.length * b := by
  have := List.sum_le_card_nsmul (l.map f) b (by simpa using h)
  simpa using this

theorem changes_le_length (ms : List Bool) : changes ms ≤ ms.length := by
  rw [changes_eq_length_filter]
  have := List.length_filter_le (fun i => decide (ms[i]? ≠ ms[i + 1]?)) (List.range (ms.length - 1))
  rw [List.length_range] at this
  omega

theorem runCount_le (ms : List Bool) : runCount ms ≤ 1 + ms.length :=
  Nat.add_le_add_left (changes_le_length ms) 1

/-- A traversal delivers one value for each element, each of them the value of some element. -/
theorem mapM_eq_ok {α β : Type} {f : α → Work β} {l : List α} {ys : List β} (h : l.mapM f = .ok ys) :
    ys.length = l.length ∧ ∀ y ∈ ys, ∃ a ∈ l, f a = .ok y := by
  induction l generalizing ys with
  | nil =>
    obtain rfl : [] = ys := Except.ok.inj h
    exact ⟨rfl, nofun⟩
  | cons a l ih =>
    rw [List.mapM_cons] at h
    obtain ⟨y, hy, h⟩ := (work_bind_eq_ok ..).1 h
    obtain ⟨rest, hrest, h⟩ := (work_bind_eq_ok ..).1 h
    obtain rfl : y :: rest = ys := Except.ok.inj h
    obtain ⟨hlen, hmem⟩ := ih hrest
    refine ⟨congrArg (· + 1) hlen, List.forall_mem_cons.2 ⟨⟨a, List.mem_cons_self, hy⟩, fun z hz => ?_⟩⟩
    obtain ⟨b, hb, hz⟩ := hmem z hz
    exact ⟨b, List.mem_cons_of_mem a hb, hz⟩

/-- GRID_EMIT counts at most 261 events for each of at most 256 rows (R141). -/
theorem gridEventCount_lt {name : RamName} {g : Ram Cell} {rows cols : Nat} {m : List (List Bool)}
    (hrows : rows ≤ Config.gridDim) (hcols : cols ≤ Config.gridDim) (h : readRows name g cols 0 rows = .ok m) :
    gridEventCount m < 2 ^ 32 := by
  obtain ⟨hlen, hm⟩ := (readRows_eq_ok ..).1 h
  have hcount : gridEventCount m ≤ m.length * 261 := sum_map_le fun row hrow => by
    obtain ⟨j, hj, rfl⟩ := List.mem_iff_getElem.1 hrow
    obtain ⟨row, hrow, hcolumns, -⟩ := hm j (hlen ▸ hj)
    obtain rfl : m[j] = row := Option.some.inj ((List.getElem?_eq_getElem hj).symm.trans hrow)
    have := runCount_le m[j]
    simp only [Config.gridDim] at hcols
    omega
  simp only [Config.gridDim] at hrows
  omega

theorem gridEmitPlan_count_lt {selA : Bool} {s : State} {plan : EventPlan} (h : gridEmitPlan selA s = .ok plan) :
    plan.count < 2 ^ 32 := by
  obtain ⟨_, hgrid, h⟩ := (work_bind_eq_ok ..).1 h
  rw [require_eq_ok, Bool.and_eq_true] at hgrid
  obtain ⟨hrows, hcols⟩ := hgrid
  have hplan {name : RamName} {g : Ram Cell}
      (h : (do let m ← readRows name g (arg2N s) 0 (arg1N s)
               .ok { count := gridEventCount m, events := gridEvents 0 m : EventPlan }) = .ok plan) :
      plan.count < 2 ^ 32 := by
    obtain ⟨m, hm, h⟩ := (work_bind_eq_ok ..).1 h
    rw [← Except.ok.inj h]
    exact gridEventCount_lt (inGrid_le hrows).2 (inGrid_le hcols).2 hm
  cases selA with
  | true => exact hplan h
  | false => exact hplan h

/-- A PDF417 row of n patterns counts at most 43 events and 20 for each of them (R151). -/
theorem pdfRowCount_le (start stop : Nat) (row : List (Nat × Nat)) : pdfRowCount start stop row ≤ 43 + row.length * 20 := by
  have hrun (p n : Nat) : runCount (patternBits p n) ≤ 1 + n := by simpa using runCount_le (patternBits p n)
  have hstart := hrun start 17
  have hstop := hrun stop 18
  have hrow : (row.map (fun q => 2 + runCount (patternBits q.2 17))).sum ≤ row.length * 20 :=
    sum_map_le fun q _ => by have := hrun q.2 17; omega
  unfold pdfRowCount
  omega

/-- PDF_ROWS counts at most 90 rows of 32 patterns (R150, R151). -/
theorem pdfRowsPlan_count_lt {s : State} {plan : EventPlan} (h : pdfRowsPlan s = .ok plan) : plan.count < 2 ^ 32 := by
  obtain ⟨_, hgeometry, h⟩ := (work_bind_eq_ok ..).1 h
  obtain ⟨_, -, h⟩ := (work_bind_eq_ok ..).1 h
  obtain ⟨_, -, h⟩ := (work_bind_eq_ok ..).1 h
  obtain ⟨data, -, h⟩ := (work_bind_eq_ok ..).1 h
  obtain ⟨rows, hrows, h⟩ := (work_bind_eq_ok ..).1 h
  rw [require_eq_ok, decide_eq_true_eq] at hgeometry
  obtain ⟨-, hr, -, hc⟩ := hgeometry
  rw [readRowPatterns_eq_mapM] at hrows
  obtain ⟨hlen, hrow⟩ := mapM_eq_ok hrows
  rw [List.length_range'] at hlen
  rw [← Except.ok.inj h]
  have hcount : (rows.map (pdfRowCount s.pdfStart.toNat s.pdfStop.toNat)).sum ≤ rows.length * 683 :=
    sum_map_le fun row hmem => by
      obtain ⟨y, -, hy⟩ := hrow row hmem
      rw [readPatterns_eq_mapM] at hy
      obtain ⟨hpatterns, -⟩ := mapM_eq_ok hy
      have hwords : (rowCodewords data (arg1N s) (arg2N s) (arg3N s) y).length ≤ arg2N s + 2 := by
        simp [rowCodewords]
      have := pdfRowCount_le s.pdfStart.toNat s.pdfStop.toNat row
      simp only [Config.pdfColsMax] at hc
      omega
  simp only [Config.pdfRowsMax] at hr
  show (rows.map (pdfRowCount s.pdfStart.toNat s.pdfStop.toNat)).sum < 2 ^ 32
  omega

/-- BAR_WALK counts at most 17 events for each of at most 4096 elements (R154). -/
theorem barWalkPlan_count_lt {black1 : Bool} {kind : BitVec 4} {s : State} {plan : EventPlan}
    (h : barWalkPlan black1 kind s = .ok plan) : plan.count < 2 ^ 32 := by
  obtain ⟨_, hlen, h⟩ := (work_bind_eq_ok ..).1 h
  obtain ⟨xs, hxs, h⟩ := (work_bind_eq_ok ..).1 h
  obtain ⟨entries, hentries, h⟩ := (work_bind_eq_ok ..).1 h
  rw [require_eq_ok, decide_eq_true_eq] at hlen
  obtain ⟨hxslen, -⟩ := (readRanged_eq_ok ..).1 hxs
  rw [readBarEntries_eq_mapM] at hentries
  obtain ⟨hentrieslen, -⟩ := mapM_eq_ok hentries
  rw [← Except.ok.inj h]
  have hcount : (entries.map (fun q => 2 + entryCount q.2)).sum ≤ entries.length * 17 :=
    sum_map_le fun q _ => by unfold entryCount; omega
  simp only [Config.cwDepth] at hlen
  show (entries.map (fun q => 2 + entryCount q.2)).sum < 2 ^ 32
  omega

/-! ## The overflow -/

/-- What R95 says of an emitting command whose other checks pass: T is exact, and if the events do not fit it ends with
EV_OVERFLOW alone. -/
def OverflowsExactly (s : State) (plan : EventPlan) (outcome : Host.Outcome State Fault Refusal) : Prop :=
  plan.count = plan.events.length ∧
    (8192 < s.evWptr.toNat + plan.events.length →
      outcome = .next (errState s .evOverflow plan.events.length s.evWptr.toNat))

theorem overflowsExactly_emitting {s : State} {plan : EventPlan} {w : Work EventPlan} (hw : w = .ok plan)
    (hexact : Yields s w (fun plan => plan.events.length = plan.count)) (hfit : plan.count < 2 ^ 32) :
    OverflowsExactly s plan (finish s (w >>= emit s)) := by
  subst hw
  have hcount : plan.events.length = plan.count := hexact
  refine ⟨hcount.symm, fun hover => ?_⟩
  have hwptr : s.evWptr.toNat < 2 ^ 32 := s.evWptr.isLt.trans (by decide)
  rw [hcount] at hover ⊢
  rw [work_ok_bind, emit_eq, if_neg (Nat.not_le.2 hover), finish_error, raiseError_eq_errState hfit hwptr]

/-- Settles O48: each emitting command ends by `emit` with a plan whose count is exact and fits RESULT0. -/
theorem overflowingEmittersWriteNothing : Obligations.OverflowingEmittersWriteNothing := by
  intro s i plan hwf hplan
  cases i with
  | gridEmit selA => exact overflowsExactly_emitting hplan (yields_gridEmitPlan selA s) (gridEmitPlan_count_lt hplan)
  | pdfRows => exact overflowsExactly_emitting hplan (yields_pdfRowsPlan s) (pdfRowsPlan_count_lt hplan)
  | barWalk black1 kind =>
    have hexec : exec (.barWalk black1 kind) s = finish s (barWalkPlan black1 kind s >>= emit s) := if_pos hwf
    rw [hexec]
    exact overflowsExactly_emitting hplan (yields_barWalkPlan black1 kind s) (barWalkPlan_count_lt hplan)
  | nop | rsEcc200 | pdfEcc | ckMod10 _ | ckMod103 _ | ckMod6 _ | ckFcs _ | dmPlace | dmFrame => exact hplan.elim

end Sys2Proof.Proofs

end

section

/-! PROOF. The errors DM_PLACE finds while placing (43_layout_matrix.md R129 to R135): one of four codes, with values that
fit the result registers, and what they leave of GA (40_command_common.md R88, R89). -/

namespace Sys2Proof.Proofs

open Sys2Proof Sys2Proof.Machine Sys2Proof.Claims

/-! ## The ways the placement may stop -/

/-- The errors of the placement of N codewords: their codes, and values that are a codeword's index or N and a report of a cell
or N (R162). -/
def PlacementHalt (N : Nat) : Halt → Prop
  | .error code r0 r1 =>
    code ∈ [ErrCode.geometry, .overlap, .cwUnderrun, .incomplete] ∧ r0 ≤ N ∧ (r1 < 2 ^ 32 ∨ r1 = N)
  | .fault _ => False

/-- A part of the placement delivers only values with the property, and stops only with an error of the placement. -/
def Places {α : Type} (N : Nat) (w : Work α) (post : α → Prop) : Prop :=
  match w with
  | .ok a => post a
  | .error h => PlacementHalt N h

theorem places_bind {α β : Type} {N : Nat} {x : Work α} {f : α → Work β} {mid : α → Prop} {post : β → Prop}
    (hx : Places N x mid) (hf : ∀ a, mid a → Places N (f a) post) : Places N (x >>= f) post := by
  cases x with
  | ok a => exact hf a hx
  | error h => exact hx

theorem places_require {N : Nat} {ok : Bool} {code : ErrCode} {r0 r1 : Nat}
    (herr : PlacementHalt N (.error code r0 r1)) : Places N (require ok code r0 r1) (fun _ => ok = true) := by
  cases ok with
  | true => exact rfl
  | false => exact herr

theorem places_ite {α : Type} {N : Nat} {c : Prop} [Decidable c] {x y : Work α} {post : α → Prop}
    (hx : c → Places N x post) (hy : ¬ c → Places N y post) : Places N (if c then x else y) post := by
  split
  · next h => exact hx h
  · next h => exact hy h

/-- Two 16-bit halves fit a result register. -/
theorem report_lt {r c : Nat} (hr : r < 65536) (hc : c < 65536) : (r <<< 16) ||| c < 2 ^ 32 :=
  Nat.or_lt_two_pow (by rw [Nat.shiftLeft_eq]; omega) (by omega)

theorem cellReport_lt (r c : Int) : cellReport r c < 2 ^ 32 := report_lt (by omega) (by omega)

/-! ## The sheet's shape -/

/-- A sheet of R rows of C cells. -/
def Shaped (R C : Nat) (sheet : List (List Mark)) : Prop := sheet.length = R ∧ ∀ row ∈ sheet, row.length = C

theorem shaped_replicate (R C : Nat) (m : Mark) : Shaped R C (List.replicate R (List.replicate C m)) :=
  ⟨List.length_replicate, fun row hrow => by rw [List.eq_of_mem_replicate hrow, List.length_replicate]⟩

theorem shaped_setMark {R C : Nat} {sheet : List (List Mark)} (h : Shaped R C sheet) (r c : Nat) (m : Mark) :
    Shaped R C (setMark sheet r c m) := by
  obtain ⟨hrows, hcols⟩ := h
  refine ⟨by rw [setMark, List.length_modify, hrows], fun row hrow => ?_⟩
  obtain ⟨j, hj, rfl⟩ := List.mem_iff_getElem.1 hrow
  rw [setMark, List.length_modify] at hj
  have hrow : (sheet[j]).length = C := hcols _ (List.getElem_mem hj)
  simp only [setMark, List.getElem_modify]
  split
  · rw [List.length_set, hrow]
  · exact hrow

theorem firstUnsetInRow_lt {row : List Mark} {c c' : Nat} (h : firstUnsetInRow c row = some c') : c' < c + row.length := by
  induction row generalizing c with
  | nil => cases h
  | cons m row ih =>
    rw [List.length_cons]
    cases m with
    | unset =>
      obtain rfl : c = c' := Option.some.inj h
      omega
    | codeword _ _ | fixed _ =>
      have := ih h
      omega

/-- An UNSET cell that is found lies on the sheet. -/
theorem firstUnset_lt {C r : Nat} {sheet : List (List Mark)} {cell : Nat × Nat} (hcols : ∀ row ∈ sheet, row.length = C)
    (h : firstUnset r sheet = some cell) : cell.1 < r + sheet.length ∧ cell.2 < C := by
  induction sheet generalizing r with
  | nil => cases h
  | cons row sheet ih =>
    obtain ⟨hrow, hrest⟩ := List.forall_mem_cons.1 hcols
    rw [firstUnset] at h
    rw [List.length_cons]
    cases hfirst : firstUnsetInRow 0 row with
    | some c =>
      rw [hfirst] at h
      obtain rfl : (r, c) = cell := Option.some.inj h
      have := firstUnsetInRow_lt hfirst
      omega
    | none =>
      rw [hfirst] at h
      have := ih hrest h
      omega

/-! ## The parts of the placement -/

/-- A placement under way: a sheet of the region's shape, and no more codewords placed than there are. -/
def PlacingOk (N R C : Nat) (p : Placing) : Prop := Shaped R C p.sheet ∧ p.pos ≤ N

theorem places_fillCells {N R C pos : Nat} (hpos : pos ≤ N) (cells : List (Nat × Nat × Bool))
    (hcells : ∀ cell ∈ cells, cell.1 ≤ 256 ∧ cell.2.1 ≤ 256) {sheet : List (List Mark)} (hsheet : Shaped R C sheet) :
    Places N (fillCells pos cells sheet) (Shaped R C) := by
  induction cells generalizing sheet with
  | nil => exact hsheet
  | cons cell cells ih =>
    obtain ⟨r, c, dark⟩ := cell
    obtain ⟨⟨hr, hc⟩, hrest⟩ := List.forall_mem_cons.1 hcells
    have hreport : (r <<< 16) ||| c < 2 ^ 32 := report_lt (hr.trans_lt (by decide)) (hc.trans_lt (by decide))
    refine places_bind (places_require ⟨by decide, hpos, .inl hreport⟩) fun _ _ => ?_
    exact ih hrest (shaped_setMark hsheet _ _ _)

section

variable {N R C : Nat} (hR : R ≤ 256) (hC : C ≤ 256)

include hR hC

theorem places_placeModule {pos bit : Nat} (hpos : pos ≤ N) {sheet : List (List Mark)} (hsheet : Shaped R C sheet)
    (cell : Int × Int) : Places N (placeModule R C pos bit sheet cell) (Shaped R C) := by
  refine places_ite (fun hin => places_ite (fun _ => ?_) fun _ => ?_) fun _ => ?_
  · exact shaped_setMark hsheet _ _ _
  · obtain ⟨hr0, hr, hc0, hc⟩ := hin
    exact ⟨by decide, hpos, .inl (report_lt (by omega) (by omega))⟩
  · exact ⟨by decide, hpos, .inl (cellReport_lt _ _)⟩

theorem places_placeBits {pos : Nat} (hpos : pos ≤ N) (cells : List (Int × Int)) (bit : Nat) {sheet : List (List Mark)}
    (hsheet : Shaped R C sheet) : Places N (placeBits R C pos bit cells sheet) (Shaped R C) := by
  induction cells generalizing bit sheet with
  | nil => exact hsheet
  | cons cell cells ih =>
    exact places_bind (places_placeModule hR hC hpos hsheet cell) fun next hnext => ih (bit + 1) hnext

theorem places_placePattern {cells : List (Int × Int)} {p : Placing} (hp : PlacingOk N R C p) :
    Places N (placePattern N R C cells p) (PlacingOk N R C) := by
  obtain ⟨hsheet, hpos⟩ := hp
  refine places_bind (places_require ⟨by decide, hpos, .inr rfl⟩) fun _ hlt => ?_
  exact places_bind (places_placeBits hR hC hpos cells 1 hsheet) fun sheet hnext => ⟨hnext, of_decide_eq_true hlt⟩

theorem places_placeMove {p : Placing} (hp : PlacingOk N R C p) (m : Move) :
    Places N (placeMove N R C p m) (PlacingOk N R C) := by
  cases m with
  | corner cells => exact places_placePattern hR hC hp
  | anchor row col => exact places_ite (fun _ => places_placePattern hR hC hp) fun _ => hp

theorem places_placeAll (moves : List Move) {p : Placing} (hp : PlacingOk N R C p) :
    Places N (placeAll N R C moves p) (PlacingOk N R C) := by
  induction moves generalizing p with
  | nil => exact hp
  | cons m moves ih => exact places_bind (places_placeMove hR hC hp m) fun q hq => ih hq

theorem places_cornerFill {p : Placing} (hp : PlacingOk N R C p) :
    Places N (cornerFill R C p) (fun q => Shaped R C q.1) := by
  obtain ⟨hsheet, hpos⟩ := hp
  refine places_ite (fun _ => ?_) fun _ => hsheet
  refine places_bind (places_require ⟨by decide, hpos, .inl (report_lt (by omega) (by omega))⟩) fun _ _ => ?_
  have hcells : ∀ cell ∈ [(R - 1, C - 1, true), (R - 2, C - 2, true), (R - 1, C - 2, false), (R - 2, C - 1, false)],
      cell.1 ≤ 256 ∧ cell.2.1 ≤ 256 := by
    simp only [List.forall_mem_cons, List.not_mem_nil, false_implies, implies_true, and_true]
    omega
  exact places_bind (places_fillCells hpos _ hcells hsheet) fun sheet hfilled => hfilled

/-- The placement stops only with its own errors. -/
theorem places_placement : Places N (placement N R C) (fun _ => True) := by
  refine places_bind (places_placeAll hR hC _ ⟨shaped_replicate R C _, Nat.zero_le N⟩) fun p hp => ?_
  refine places_bind (places_cornerFill hR hC hp) fun q hq => ?_
  obtain ⟨hrows, hcols⟩ := hq
  cases hfirst : firstUnset 0 q.1 with
  | none => exact trivial
  | some cell =>
    have := firstUnset_lt hcols hfirst
    exact ⟨by decide, hp.2, .inl (report_lt (by omega) (by omega))⟩

end

/-! ## The frame of a placement error -/

theorem placeOperands_of_cwHolds {s : State} {xs : List Nat} (hcw : CwHolds s xs) (hxs : ∀ x ∈ xs, x ≤ 255)
    (hlen : xs.length ≤ 4096) (hrows : inGrid (arg1N s) = true) (hcols : inGrid (arg2N s) = true) :
    placeOperands s = .ok xs := by
  have hgrid : (inGrid (arg1N s) && inGrid (arg2N s)) = true := by rw [hrows, hcols]; rfl
  have hlenN : decide (lenN s ≤ Config.cwDepth) = true := decide_eq_true (hcw.1.trans_le hlen)
  rw [placeOperands, require_of hgrid, work_ok_bind, require_of hlenN, work_ok_bind, readRanged_of_cwHolds hcw hxs]

/-- The region of GA is lost to free values, and no other cell of GA (R89). -/
theorem scrambleGa_read {s : State} {rows cols : Nat} (hcols : cols ≤ 256) {r c : Nat} (hc : c < 256) :
    (scrambleGa s rows cols).ga.read (256 * r + c) =
      if r < rows ∧ c < cols then some (cellOfCode (Config.freeGa s.draws (cellIndex r c)))
      else s.ga.read (256 * r + c) := by
  have hindex : 256 * r + c = cellIndex r c := by simp only [cellIndex, Config.gridDim]; omega
  rw [hindex, scrambleGa_ga, Ram.read_writeRect _ _ _ _ _ _ hcols hc]

/-- Settles O40: the placement's errors fit the result registers, and DM_PLACE raises them on GA without its region. -/
theorem dmPlaceDynamicErrorFrame : Obligations.DmPlaceDynamicErrorFrame := by
  intro s xs code r0 r1 hcw hxs hlen hrows1 hrows hcols1 hcols hplacement
  have hhalt : Places xs.length (placement xs.length s.arg1.toNat s.arg2.toNat) _ := places_placement hrows hcols
  rw [hplacement] at hhalt
  obtain ⟨hcode, hr0, hr1⟩ := hhalt
  have hoperands : placeOperands s = .ok xs :=
    placeOperands_of_cwHolds hcw hxs hlen (inGrid_of hrows1 hrows) (inGrid_of hcols1 hcols)
  have hplaced : placement (lenN s) (arg1N s) (arg2N s) = .error (.error code r0 r1) := by
    rw [lenN, hcw.1]
    exact hplacement
  have hexec : exec .dmPlace s = .next (errState (scrambleGa s (arg1N s) (arg2N s)) code r0 r1) := by
    simp only [exec, execDmPlace, hoperands, hplaced, finish_error]
    rw [raiseError_eq_errState (by omega) (by omega)]
  refine ⟨hcode, _, hexec, rfl, fun r c hr hc => ?_, fun r c hc hout => ?_⟩
  · exact ⟨_, (scrambleGa_read hcols (hc.trans_le hcols)).trans (if_pos ⟨hr, hc⟩)⟩
  · exact (scrambleGa_read hcols hc).trans (if_neg hout)

end Sys2Proof.Proofs

end

section

/-! PROOF. The checksum commands (41_checksum.md): the two forms of R98 once for CK_MOD10, CK_MOD103 and CK_MOD6, which check
their elements alike, and once for CK_FCS; the sums and the frame check sequence in the words of the statements; and the
round trip. -/

namespace Sys2Proof.Proofs

open Sys2Proof Sys2Proof.Machine Sys2Proof.Claims

/-! ## The elements of CW, in parts -/

/-- Consecutive elements of those that CW holds are read, if they are in range. -/
theorem readRanged_of_cwHolds_part {s : State} {before xs after : List Nat} {limit : Nat}
    (hcw : CwHolds s (before ++ xs ++ after)) (hlimit : ∀ x ∈ xs, x ≤ limit) :
    readRanged s limit before.length xs.length = .ok xs := by
  refine (readRanged_eq_ok ..).2 ⟨rfl, fun j hj => ⟨?_, by simpa [hj] using hlimit _ (List.getElem_mem hj)⟩⟩
  rw [hcw.2 _ (by simp only [List.length_append]; omega), List.append_assoc,
    List.getElem?_append_right (Nat.le_add_right ..), Nat.add_sub_cancel_left, List.getElem?_append_left hj]

/-- What a read of elements delivers is what CW holds there. -/
theorem eq_of_readRanged {s : State} {xs ys : List Nat} {limit n : Nat} (hcw : CwHolds s xs) (hn : n = xs.length)
    (h : readRanged s limit 0 n = .ok ys) : ys = xs := by
  obtain ⟨hlen, hys⟩ := (readRanged_eq_ok ..).1 h
  refine List.ext_getElem? fun j => ?_
  by_cases hj : j < n
  · rw [← (hys j hj).1, Nat.zero_add, hcw.2 j (hn ▸ hj)]
  · rw [List.getElem?_eq_none (by omega), List.getElem?_eq_none (by omega)]

/-- An element of CW has 16 bits (R39). -/
theorem le_of_cwHolds {s : State} {xs : List Nat} (hcw : CwHolds s xs) : ∀ x ∈ xs, x ≤ 65535 := by
  intro x hx
  obtain ⟨i, hi, rfl⟩ := List.mem_iff_getElem.1 hx
  have hread := hcw.2 i hi
  rw [List.getElem?_eq_getElem hi, Option.map_eq_some_iff] at hread
  obtain ⟨v, -, hv⟩ := hread
  omega

/-! ## The end of a checksum command (R98) -/

/-- The state the verify form leaves, by the supplied value `c`. -/
def verdict (s : State) (chk second c : Nat) : State :=
  if c = chk then doneState s chk second else errState s .mismatch chk c

theorem finish_of_generate {s : State} {xs : List Nat} {chk second : Nat} (hchk : chk < 2 ^ 32)
    (hsecond : second < 2 ^ 32) :
    finish s (checkSupplied false xs chk >>= fun _ => .ok (complete chk second s)) =
      .next (doneState s chk second) :=
  congrArg Host.Outcome.next (complete_eq_doneState hchk hsecond s)

theorem finish_of_verify {s : State} {xs : List Nat} {c chk second : Nat} (hchk : chk < 2 ^ 32)
    (hsecond : second < 2 ^ 32) (hc : c < 2 ^ 32) :
    finish s (checkSupplied true (xs ++ [c]) chk >>= fun _ => .ok (complete chk second s)) =
      .next (verdict s chk second c) := by
  have hsupplied : checkSupplied true (xs ++ [c]) chk = require (decide (c = chk)) .mismatch chk c := by
    simp only [checkSupplied, if_true, List.getLastD_concat]
  rw [hsupplied, verdict]
  by_cases h : c = chk
  · rw [if_pos h, decide_eq_true h, require_true, work_ok_bind, finish_ok, complete_eq_doneState hchk hsecond]
  · rw [if_neg h, decide_eq_false h, require_false, work_error_bind, finish_error, raiseError_eq_errState hchk hc]

/-- A command that ends without an error code has passed its first part, since what stops a part has a code. -/
theorem first_ok_of_noError {α : Type} {s t : State} {x : Work α} {f : α → Work State} {post : α → Prop}
    (h : finish s (x >>= f) = .next t) (hcode : t.errcode = .none) (hx : Yields s x post) :
    ∃ a, x = .ok a ∧ post a ∧ finish s (f a) = .next t := by
  cases x with
  | ok a => exact ⟨a, rfl, hx, h⟩
  | error halt =>
    cases halt with
    | error code r0 r1 =>
      obtain rfl := Host.Outcome.next.inj h
      exact absurd hcode hx
    | fault f => cases h

/-! ## The common work of CK_MOD10, CK_MOD103 and CK_MOD6 (R98, R99) -/

/-- The work of the three commands that take any number of elements: they differ in the elements' range, the check value and
RESULT1. -/
def checksumWork (s : State) (limit : Nat) (chk second : List Nat → Nat) (verify : Bool) : Work State := do
  checkLength verify (lenN s)
  let xs ← readRanged s limit 0 (lenN s)
  checkSupplied verify xs (chk (payload verify xs))
  .ok (complete (chk (payload verify xs)) (second (payload verify xs)) s)

theorem exec_ckMod10_eq (verify : Bool) (s : State) :
    exec (.ckMod10 verify) s = finish s
      (checksumWork s 9 (fun xs => mod10Check (mod10Sum 1 xs.reverse)) (fun xs => mod10Sum 1 xs.reverse) verify) := rfl

theorem exec_ckMod103_eq (verify : Bool) (s : State) :
    exec (.ckMod103 verify) s = finish s
      (checksumWork s 65535 (fun xs => mod103Sum (flagN s.c128w0) 0 xs % 103) (fun _ => 0) verify) := rfl

theorem exec_ckMod6_eq (verify : Bool) (s : State) :
    exec (.ckMod6 verify) s = finish s
      (checksumWork s 35 (fun xs => mod6Check s.rmlit (xs.map rowVal).sum (xs.map colVal).sum)
        (fun xs => ((xs.map rowVal).sum <<< 16) ||| (xs.map colVal).sum) verify) := rfl

section

variable {s : State} {xs : List Nat} {limit : Nat} {chk second : List Nat → Nat}

theorem checksumWork_generate (hcw : CwHolds s xs) (hlimit : ∀ x ∈ xs, x ≤ limit) (hlen : xs.length ≤ 4096)
    (hchk : chk xs < 2 ^ 32) (hsecond : second xs < 2 ^ 32) :
    finish s (checksumWork s limit chk second false) = .next (doneState s (chk xs) (second xs)) := by
  have hcheck : checkLength false (lenN s) = .ok () := require_of (by simpa [lenN, hcw.1] using hlen)
  rw [checksumWork, hcheck, work_ok_bind, readRanged_of_cwHolds hcw hlimit, work_ok_bind]
  exact finish_of_generate hchk hsecond

theorem checksumWork_verify {c : Nat} (hcw : CwHolds s (xs ++ [c])) (hlimit : ∀ x ∈ xs ++ [c], x ≤ limit)
    (hlen : xs.length + 1 ≤ 4096) (hchk : chk xs < 2 ^ 32) (hsecond : second xs < 2 ^ 32) :
    finish s (checksumWork s limit chk second true) = .next (verdict s (chk xs) (second xs) c) := by
  have hlenN : lenN s = xs.length + 1 := hcw.1.trans List.length_append
  have hcheck : checkLength true (lenN s) = .ok () := checkLength_of (by omega) (by simpa [hlenN] using hlen)
  have hpayload : payload true (xs ++ [c]) = xs := List.dropLast_concat
  have hc : c ≤ 65535 := le_of_cwHolds hcw c (by simp)
  rw [checksumWork, hcheck, work_ok_bind, readRanged_of_cwHolds hcw hlimit, work_ok_bind, hpayload]
  exact finish_of_verify hchk hsecond (by omega)

/-- Without an error every element was in range. -/
theorem le_of_checksumWork_noError {verify : Bool} {t : State} (hcw : CwHolds s xs)
    (h : finish s (checksumWork s limit chk second verify) = .next t) (hcode : t.errcode = .none) :
    ∀ x ∈ xs, x ≤ limit := by
  obtain ⟨_, -, hdepth, h⟩ := first_ok_of_noError h hcode yields_checkLength
  obtain ⟨ys, hys, ⟨-, hlimit⟩, -⟩ := first_ok_of_noError h hcode (yields_readRanged (by omega))
  exact eq_of_readRanged hcw hcw.1 hys ▸ hlimit

end

/-! ## CK_MOD10 (R100) -/

theorem mod10Sum_concat (p : Nat) (xs : List Nat) (x : Nat) :
    mod10Sum p (xs ++ [x]) = mod10Sum p xs + x * (if (p + xs.length) % 2 = 1 then 3 else 1) := by
  induction xs generalizing p with
  | nil => simp [mod10Sum]
  | cons y xs ih =>
    rw [List.cons_append, mod10Sum, mod10Sum, ih, List.length_cons, Nat.add_assoc, Nat.add_assoc, Nat.add_comm 1]

theorem sum10_cons (x : Nat) (xs : List Nat) :
    sum10 (x :: xs) = x * (if (xs.length + 1) % 2 = 1 then 3 else 1) + sum10 xs := by
  simp [sum10, List.range_succ_eq_map, Function.comp_def]

/-- The positions of R100 count from the right, so its first summand is the payload's last digit. -/
theorem mod10Sum_reverse (xs : List Nat) : mod10Sum 1 xs.reverse = sum10 xs := by
  induction xs with
  | nil => rfl
  | cons x xs ih =>
    rw [List.reverse_cons, mod10Sum_concat, ih, sum10_cons, List.length_reverse, Nat.add_comm 1, Nat.add_comm]

/-- A sum over the positions of a list, by a bound of its summands. -/
theorem sum_range_lt {f : Nat → Nat} {n b : Nat} (hn : n ≤ 4096) (hb : b ≤ 65535)
    (h : ∀ i, i < n → f i ≤ b) : ((List.range n).map f).sum < 2 ^ 32 := by
  have hsum : ((List.range n).map f).sum ≤ n * b := by
    simpa using sum_map_le (l := List.range n) (f := f) (b := b) fun i hi => h i (List.mem_range.1 hi)
  have hprod : n * b ≤ 4096 * 65535 := Nat.mul_le_mul hn hb
  omega

theorem sum10_lt {xs : List Nat} (hxs : ∀ x ∈ xs, x ≤ 9) (hlen : xs.length ≤ 4096) : sum10 xs < 2 ^ 32 :=
  sum_range_lt (b := 27) hlen (by decide) fun i hi => by
    have hdigit : xs.getD i 0 ≤ 9 := by simpa [hi] using hxs _ (List.getElem_mem hi)
    split <;> omega

theorem check10_le (xs : List Nat) : check10 xs ≤ 9 := by unfold check10; omega

/-- Settles O30: the digits read from the right are the sum of R100, which fits RESULT1. -/
theorem ckMod10Result : Obligations.CkMod10Result := by
  have hchk (xs : List Nat) : check10 xs < 2 ^ 32 := (check10_le xs).trans_lt (by decide)
  refine ⟨fun s xs hcw hxs hlen => ?_, fun s xs c hcw hxs hlen => ?_⟩
  · simp only [exec_ckMod10_eq, mod10Sum_reverse]
    exact checksumWork_generate hcw hxs hlen (hchk xs) (sum10_lt hxs hlen)
  · have hdigits : ∀ x ∈ xs, x ≤ 9 := fun x hx => hxs x (List.mem_append_left _ hx)
    simp only [exec_ckMod10_eq, mod10Sum_reverse]
    exact checksumWork_verify hcw hxs hlen (hchk xs) (sum10_lt hdigits (by omega))

/-! ## CK_MOD103 (R101) -/

theorem mod103Sum_eq (w0 i : Nat) (xs : List Nat) :
    mod103Sum w0 i xs =
      ((List.range xs.length).map fun j => xs.getD j 0 * (if i + j = 0 then w0 else i + j)).sum := by
  induction xs generalizing i with
  | nil => rfl
  | cons x xs ih =>
    rw [mod103Sum, ih]
    simp [List.range_succ_eq_map, Function.comp_def, Nat.add_comm, Nat.add_left_comm]

theorem mod103Sum_mod (w0 : Nat) (xs : List Nat) : mod103Sum w0 0 xs % 103 = check103 w0 xs := by
  simp only [mod103Sum_eq, Nat.zero_add, check103]

theorem check103_lt (w0 : Nat) (xs : List Nat) : check103 w0 xs < 103 := Nat.mod_lt _ (by decide)

/-- Settles O31: no element is out of range, as each has 16 bits. -/
theorem ckMod103Result : Obligations.CkMod103Result := by
  have hchk (w0 : Nat) (xs : List Nat) : check103 w0 xs < 2 ^ 32 := (check103_lt w0 xs).trans (by decide)
  refine ⟨fun s xs hcw hlen => ?_, fun s xs c hcw hlen => ?_⟩
  · simp only [exec_ckMod103_eq, mod103Sum_mod]
    exact checksumWork_generate hcw (le_of_cwHolds hcw) hlen (hchk _ xs) (by decide)
  · simp only [exec_ckMod103_eq, mod103Sum_mod]
    exact checksumWork_verify hcw (le_of_cwHolds hcw) hlen (hchk _ xs) (by decide)

/-! ## CK_MOD6 (R102 to R104) -/

/-- The weights of R102 on the default table's entries give its row and column (R104). -/
theorem rowVal_colVal {x : Nat} (hx : x ≤ 35) : rowVal x = rowOf x ∧ colVal x = colOf x := by
  have htable : ∀ y < 36, rowVal y = rowOf y ∧ colVal y = colOf y := by decide
  exact htable x (by omega)

theorem map_rowVal {xs : List Nat} (hxs : ∀ x ∈ xs, x ≤ 35) : xs.map rowVal = xs.map rowOf :=
  List.map_congr_left fun x hx => (rowVal_colVal (hxs x hx)).1

theorem map_colVal {xs : List Nat} (hxs : ∀ x ∈ xs, x ≤ 35) : xs.map colVal = xs.map colOf :=
  List.map_congr_left fun x hx => (rowVal_colVal (hxs x hx)).2

theorem check6_le (literal : Bool) (xs : List Nat) : check6 literal xs ≤ 35 := by
  unfold check6
  split <;> omega

/-- Each half of RESULT1 holds its sum: a row or a column is at most 6. -/
theorem rowSum_colSum_lt {xs : List Nat} (hxs : ∀ x ∈ xs, x ≤ 35) (hlen : xs.length ≤ 4096) :
    (xs.map rowOf).sum < 65536 ∧ (xs.map colOf).sum < 65536 := by
  have hrow : (xs.map rowOf).sum ≤ xs.length * 6 := sum_map_le fun x hx => by
    have := hxs x hx
    unfold rowOf; omega
  have hcol : (xs.map colOf).sum ≤ xs.length * 6 := sum_map_le fun x _ => by unfold colOf; omega
  omega

/-- CK_MOD6's check index and RESULT1 from the machine's sums. -/
theorem mod6_values (literal : Bool) {xs : List Nat} (hxs : ∀ x ∈ xs, x ≤ 35) (hlen : xs.length ≤ 4096) :
    mod6Check literal (xs.map rowVal).sum (xs.map colVal).sum = check6 literal xs ∧
      ((xs.map rowVal).sum <<< 16) ||| (xs.map colVal).sum = (xs.map rowOf).sum * 65536 + (xs.map colOf).sum := by
  obtain ⟨-, hcol⟩ := rowSum_colSum_lt hxs hlen
  rw [map_rowVal hxs, map_colVal hxs]
  exact ⟨rfl, by rw [← Nat.shiftLeft_add_eq_or_of_lt hcol, Nat.shiftLeft_eq]⟩

/-- Settles O32. -/
theorem ckMod6Result : Obligations.CkMod6Result := by
  have hchk (literal : Bool) (xs : List Nat) : check6 literal xs < 2 ^ 32 := (check6_le literal xs).trans_lt (by decide)
  refine ⟨fun s xs hcw hxs hlen => ?_, fun s xs c hcw hxs hlen => ?_⟩
  · obtain ⟨hindex, hsums⟩ := mod6_values s.rmlit hxs hlen
    obtain ⟨hrow, hcol⟩ := rowSum_colSum_lt hxs hlen
    rw [exec_ckMod6_eq, checksumWork_generate hcw hxs hlen (hindex ▸ hchk _ _) (by omega), hindex, hsums]
  · have hpayload : ∀ x ∈ xs, x ≤ 35 := fun x hx => hxs x (List.mem_append_left _ hx)
    obtain ⟨hindex, hsums⟩ := mod6_values s.rmlit hpayload (by omega)
    obtain ⟨hrow, hcol⟩ := rowSum_colSum_lt hpayload (by omega)
    rw [exec_ckMod6_eq, checksumWork_verify hcw hxs hlen (hindex ▸ hchk _ _) (by omega), hindex, hsums, verdict]

/-! ## CK_FCS (R105, R106) -/

/-- The mask test of an FCS step compares the register's top bit with the input bit. -/
theorem fcsStep_eq_fcsBit (f d : Nat) : fcsStep f d = fcsBit f (d.testBit 10) := by
  have hmask (n : Nat) : n &&& 0x7FF = n % 2048 := Nat.and_two_pow_sub_one_eq_mod n 11
  have htop : (f ^^^ d) &&& 0x400 ≠ 0 ↔ (f.testBit 10 != d.testBit 10) = true := by
    have hbit : (f ^^^ d) &&& 0x400 = ((f ^^^ d).testBit 10).toNat * 2 ^ 10 := Nat.and_two_pow _ 10
    have hxor : (f ^^^ d).testBit 10 = (f.testBit 10 != d.testBit 10) := Nat.testBit_xor f d 10
    rw [hbit, hxor]
    cases f.testBit 10 != d.testBit 10 <;> decide
  rw [fcsStep_eq, fcsBit, hmask, hmask, Nat.shiftLeft_eq, Nat.pow_one, Nat.mul_comm f 2]
  simp only [htop]

/-- FCS steps take the bits of the input word from the register's top bit down, which are at most its 11. -/
theorem fcsSteps_eq_foldl {n : Nat} (hn : n ≤ 11) (f d : Nat) :
    fcsSteps n f d = ((List.range n).map fun i => d.testBit (10 - i)).foldl fcsBit f := by
  induction n generalizing f d with
  | zero => rfl
  | succ n ih =>
    have hshift : (List.range n).map (fun i => (d <<< 1).testBit (10 - i)) =
        (List.range n).map fun i => d.testBit (10 - (i + 1)) :=
      List.map_congr_left fun i hi => by
        have hi : i < n := List.mem_range.1 hi
        rw [Nat.testBit_shiftLeft, decide_eq_true (by omega), Bool.true_and, Nat.sub_sub]
    rw [fcsSteps, ih (by omega), hshift, fcsStep_eq_fcsBit, List.range_succ_eq_map, List.map_cons, List.map_map]
    rfl

/-- Shifted to the register's top, the low bits of a byte enter most significant first. -/
theorem fcsBits_eq_foldl {n : Nat} (hn : n ≤ 11) (f b : Nat) : fcsBits n f b = (bitsMsbFirst n b).foldl fcsBit f := by
  rw [fcsBits, fcsSteps_eq_foldl hn, bitsMsbFirst]
  congr 1
  refine List.map_congr_left fun i hi => ?_
  have hi : i < n := List.mem_range.1 hi
  have hbit : 10 - i - (Config.fcsWidth - n) = n - 1 - i := by simp only [Config.fcsWidth]; omega
  have hle : Config.fcsWidth - n ≤ 10 - i := by simp only [Config.fcsWidth]; omega
  rw [Nat.testBit_shiftLeft, decide_eq_true hle, Bool.true_and, hbit]

theorem fcsOf_eq_fcs (init : Nat) {xs : List Nat} (hxs : xs.length = 13) : fcsOf init xs = fcs init xs := by
  cases xs with
  | nil => cases hxs
  | cons b rest =>
    have hbyte : fcsBits 8 = fun f b => (bitsMsbFirst 8 b).foldl fcsBit f :=
      funext₂ fun f b => fcsBits_eq_foldl (by decide) f b
    rw [fcsOf, hbyte, fcsBits_eq_foldl (by decide), fcs, fcsStream, List.foldl_append, List.drop_succ_cons, List.drop_zero,
      List.foldl_flatMap, List.getD_cons_zero]

theorem fcsBit_lt (f : Nat) (bit : Bool) : fcsBit f bit < 2048 := by
  unfold fcsBit
  split <;> exact Nat.mod_lt _ (by decide)

theorem foldl_fcsBit_lt {f : Nat} (hf : f < 2048) (bits : List Bool) : bits.foldl fcsBit f < 2048 := by
  induction bits generalizing f with
  | nil => exact hf
  | cons bit bits ih => exact ih (fcsBit_lt f bit)

/-- The FCS has 11 bits (R105). -/
theorem fcs_le (s : State) (xs : List Nat) : fcs s.fcsInit.toNat xs ≤ 0x7FF :=
  Nat.le_of_lt_succ (foldl_fcsBit_lt (fcsInit_toNat_lt s) _)

/-- CK_FCS after its checks: the bytes are read, and then the supplied value. -/
theorem exec_ckFcs_of_reads {s : State} {verify : Bool} {xs supplied : List Nat}
    (hlen : lenN s = 13 + flagN verify) (hxs : xs.length = 13) (hbytes : readRanged s 255 0 13 = .ok xs)
    (hsupplied : readRanged s fcsMask 13 (flagN verify) = .ok supplied) :
    exec (.ckFcs verify) s = finish s
      (checkSupplied verify supplied (fcs s.fcsInit.toNat xs) >>= fun _ =>
        .ok (complete (fcs s.fcsInit.toNat xs) 0 s)) := by
  have hcheck : require (decide (lenN s = Config.fcsBytes + flagN verify)) .length (lenN s) 0 = .ok () :=
    require_of (decide_eq_true hlen)
  rw [← fcsOf_eq_fcs _ hxs]
  simp only [exec, execCkFcs, hcheck, hbytes, hsupplied, work_ok_bind]

/-- Settles O33. -/
theorem ckFcsResult : Obligations.CkFcsResult := by
  have hchk (s : State) (xs : List Nat) : fcs s.fcsInit.toNat xs < 2 ^ 32 := (fcs_le s xs).trans_lt (by decide)
  refine ⟨fun s xs hcw hxs hlen => ?_, fun s xs c hcw hxs hc hlen => ?_⟩
  · have hbytes : readRanged s 255 0 13 = .ok xs :=
      hlen ▸ readRanged_of_cwHolds_part (before := []) (after := []) (by simpa using hcw) hxs
    rw [exec_ckFcs_of_reads (verify := false) (hcw.1.trans hlen) hlen hbytes rfl]
    exact finish_of_generate (hchk s xs) (by decide)
  · have hbytes : readRanged s 255 0 13 = .ok xs := hlen ▸ readRanged_of_cwHolds_part (before := []) hcw hxs
    have hsupplied : readRanged s fcsMask 13 1 = .ok ([] ++ [c]) :=
      hlen ▸ readRanged_of_cwHolds_part (after := []) (by simpa using hcw) (by simpa [fcsMask_eq] using hc)
    have hlenN : lenN s = 13 + flagN true := hcw.1.trans (by simp [hlen, flagN])
    rw [exec_ckFcs_of_reads hlenN hlen hbytes hsupplied]
    exact finish_of_verify (hchk s xs) (by decide) (by omega)

/-- Without an error CK_FCS's generate form has taken 13 bytes. -/
theorem bytes_of_ckFcs_noError {s t : State} {xs : List Nat} (hcw : CwHolds s xs) (h : exec (.ckFcs false) s = .next t)
    (hcode : t.errcode = .none) : xs.length = 13 ∧ ∀ x ∈ xs, x ≤ 255 := by
  simp only [exec, execCkFcs] at h
  obtain ⟨_, -, hcount, h⟩ := first_ok_of_noError h hcode (yields_require nofun)
  obtain ⟨ys, hys, ⟨-, hlimit⟩, -⟩ := first_ok_of_noError h hcode (yields_readRanged (by decide))
  have hlen : xs.length = 13 := hcw.1.symm.trans (of_decide_eq_true hcount)
  exact ⟨hlen, eq_of_readRanged hcw hlen.symm hys ▸ hlimit⟩

/-! ## The round trip (R98, R103) -/

/-- A value that the generate form delivered as its check value passes the comparison of the verify form. -/
theorem verify_accepts_of_forms {i j : Instr} {s t u : State} {xs : List Nat} {c chk r1 r1' : Nat}
    (hgen : exec i s = .next (doneState s chk r1)) (hchk : chk < 2 ^ 32)
    (hver : CwHolds u (xs ++ [chk]) → exec j u = .next (verdict u chk r1' chk))
    (ht : exec i s = .next t) (hc : t.result0.toNat = c) (hu : CwHolds u (xs ++ [c])) :
    ∃ t, exec j u = .next t ∧ t.errcode = .none ∧ t.done = true ∧ t.result0.toNat = c := by
  obtain rfl : doneState s chk r1 = t := Host.Outcome.next.inj (hgen.symm.trans ht)
  obtain rfl : chk = c := (word_ofNat_toNat chk hchk).symm.trans hc
  refine ⟨_, hver hu, ?_⟩
  rw [verdict, if_pos rfl]
  exact ⟨rfl, rfl, word_ofNat_toNat chk hchk⟩

/-- Elements and a check value in range are elements in range. -/
theorem forall_mem_concat_le {xs : List Nat} {c limit : Nat} (hxs : ∀ x ∈ xs, x ≤ limit) (hc : c ≤ limit) :
    ∀ x ∈ xs ++ [c], x ≤ limit :=
  List.forall_mem_append.2 ⟨hxs, List.forall_mem_singleton.2 hc⟩

/-- Settles O34: the generate form without an error has found its elements in range, and its check value is in range too. -/
theorem verifyAcceptsGeneratedCheck : Obligations.VerifyAcceptsGeneratedCheck := by
  intro s u xs c m hm hcw hlen hgen hu hw0 hlit hinit
  obtain ⟨t, ht, hcode, hc⟩ := hgen
  simp only [List.mem_cons, List.not_mem_nil, or_false] at hm
  rcases hm with rfl | rfl | rfl | rfl
  · have hxs := le_of_checksumWork_noError hcw (exec_ckMod10_eq false s ▸ ht) hcode
    have hle := check10_le xs
    exact verify_accepts_of_forms (ckMod10Result.1 s xs hcw hxs (by omega)) (by omega)
      (fun happended => ckMod10Result.2 u xs _ happended (forall_mem_concat_le hxs hle) hlen) ht hc hu
  · have hgenerate := ckMod103Result.1 s xs hcw (by omega)
    rw [← hw0] at hgenerate
    exact verify_accepts_of_forms hgenerate ((check103_lt _ xs).trans (by decide))
      (fun happended => ckMod103Result.2 u xs _ happended hlen) ht hc hu
  · have hxs := le_of_checksumWork_noError hcw (exec_ckMod6_eq false s ▸ ht) hcode
    have hgenerate := ckMod6Result.1 s xs hcw hxs (by omega)
    rw [← hlit] at hgenerate
    have hle := check6_le u.rmlit xs
    exact verify_accepts_of_forms hgenerate (by omega)
      (fun happended => ckMod6Result.2 u xs _ happended (forall_mem_concat_le hxs hle) hlen) ht hc hu
  · obtain ⟨hcount, hxs⟩ := bytes_of_ckFcs_noError hcw ht hcode
    have hgenerate := ckFcsResult.1 s xs hcw hxs hcount
    rw [← hinit] at hgenerate
    have hle := fcs_le u xs
    exact verify_accepts_of_forms hgenerate (by omega)
      (fun happended => ckFcsResult.2 u xs _ happended hxs hle hcount) ht hc hu

end Sys2Proof.Proofs

end

section

/-! PROOF. GF(256) (42_ecc.md section 1): bytes with XOR and carry-less multiplication modulo 0x12D are a commutative ring, x has
order 255 in it, and so the tables of R113 hold the powers of x and gmul is its product. -/

namespace Sys2Proof.Proofs

open Sys2Proof Sys2Proof.Machine Sys2Proof.Claims

/-! ## Multiplication by powers of x (R112) -/

theorem timesX_xor (a b : BitVec 8) : timesX (a ^^^ b) = timesX a ^^^ timesX b := by
  simp only [timesX, BitVec.getLsbD_xor, BitVec.shiftLeft_xor_distrib]
  cases a.getLsbD 7 <;> cases b.getLsbD 7
  · rfl
  · exact BitVec.xor_assoc ..
  · simp only [Bool.bne_false, if_true, Bool.false_eq_true, if_false]; ac_rfl
  · simp only [bne_self_eq_false, Bool.false_eq_true, if_false, if_true]
    rw [BitVec.xor_assoc, BitVec.xor_comm (b <<< 1), ← BitVec.xor_assoc (0x2D#8), BitVec.xor_self, BitVec.zero_xor]

theorem timesX_zero : timesX 0#8 = 0#8 := by decide

theorem timesXPow_xor (a b : BitVec 8) (n : Nat) : timesXPow (a ^^^ b) n = timesXPow a n ^^^ timesXPow b n := by
  induction n with
  | zero => rfl
  | succ n ih => simp only [timesXPow, ih, timesX_xor]

theorem timesXPow_zero_left (n : Nat) : timesXPow 0#8 n = 0#8 := by
  induction n with
  | zero => rfl
  | succ n ih => rw [timesXPow, ih]; rfl

theorem timesXPow_timesXPow (v : BitVec 8) (m n : Nat) : timesXPow (timesXPow v m) n = timesXPow v (m + n) := by
  induction n with
  | zero => rfl
  | succ n ih => rw [timesXPow, ih]; rfl

theorem timesXPow_timesX (v : BitVec 8) (n : Nat) : timesXPow (timesX v) n = timesXPow v (n + 1) := by
  rw [Nat.add_comm]; exact timesXPow_timesXPow v 1 n

/-! ## Carry-less multiplication (R112) -/

/-- The product of `a` and the low `n` bits of `b`. -/
def partialProduct (a b : BitVec 8) (n : Nat) : BitVec 8 :=
  (List.range n).foldl (fun acc i => if b.getLsbD i then acc ^^^ timesXPow a i else acc) 0#8

theorem fieldMul_eq_partialProduct (a b : BitVec 8) : fieldMul a b = partialProduct a b 8 := rfl

theorem partialProduct_zero (a b : BitVec 8) : partialProduct a b 0 = 0#8 := rfl

theorem partialProduct_succ (a b : BitVec 8) (n : Nat) :
    partialProduct a b (n + 1) = partialProduct a b n ^^^ (if b.getLsbD n then timesXPow a n else 0#8) := by
  rw [partialProduct, List.range_succ, List.foldl_append]
  by_cases hb : b.getLsbD n
  · simp [hb, partialProduct]
  · simp [hb, partialProduct]

theorem fieldMul_xor_left (a b c : BitVec 8) : fieldMul (a ^^^ b) c = fieldMul a c ^^^ fieldMul b c := by
  have hpartial (n : Nat) : partialProduct (a ^^^ b) c n = partialProduct a c n ^^^ partialProduct b c n := by
    induction n with
    | zero => simp only [partialProduct_zero, BitVec.xor_zero]
    | succ n ih =>
      simp only [partialProduct_succ, ih, timesXPow_xor]
      cases c.getLsbD n
      · simp
      · simp only [if_true]; ac_rfl
  simpa only [fieldMul_eq_partialProduct] using hpartial 8

theorem fieldMul_xor_right (a b c : BitVec 8) : fieldMul a (b ^^^ c) = fieldMul a b ^^^ fieldMul a c := by
  have hpartial (n : Nat) : partialProduct a (b ^^^ c) n = partialProduct a b n ^^^ partialProduct a c n := by
    induction n with
    | zero => simp only [partialProduct_zero, BitVec.xor_zero]
    | succ n ih =>
      simp only [partialProduct_succ, ih, BitVec.getLsbD_xor]
      cases b.getLsbD n <;> cases c.getLsbD n
      · simp
      · simp [BitVec.xor_assoc]
      · simp only [Bool.bne_false, if_true, Bool.false_eq_true, if_false, BitVec.xor_zero]; ac_rfl
      · simp only [bne_self_eq_false, Bool.false_eq_true, if_false, if_true, BitVec.xor_zero]
        rw [BitVec.xor_assoc, BitVec.xor_comm (partialProduct a c n), ← BitVec.xor_assoc (timesXPow a n),
          BitVec.xor_self, BitVec.zero_xor]
  simpa only [fieldMul_eq_partialProduct] using hpartial 8

theorem fieldMul_timesX_left (a b : BitVec 8) : fieldMul (timesX a) b = timesX (fieldMul a b) := by
  have hpartial (n : Nat) : partialProduct (timesX a) b n = timesX (partialProduct a b n) := by
    induction n with
    | zero => simp only [partialProduct_zero, timesX_zero]
    | succ n ih =>
      simp only [partialProduct_succ, ih, timesX_xor, timesXPow_timesX]
      cases b.getLsbD n
      · simp [timesX_zero]
      · rfl
  simpa only [fieldMul_eq_partialProduct] using hpartial 8

theorem one_fieldMul (b : BitVec 8) : fieldMul 1#8 b = b := by
  revert b
  decide

theorem zero_fieldMul (b : BitVec 8) : fieldMul 0#8 b = 0#8 := by
  have h := fieldMul_xor_left 0#8 0#8 b
  rwa [BitVec.xor_self, BitVec.xor_self] at h

theorem fieldMul_zero (a : BitVec 8) : fieldMul a 0#8 = 0#8 := by
  have h := fieldMul_xor_right a 0#8 0#8
  rwa [BitVec.xor_self, BitVec.xor_self] at h

/-- A power of x as a factor is that many multiplications by x. -/
theorem timesXPow_fieldMul (a b : BitVec 8) (n : Nat) : fieldMul (timesXPow a n) b = timesXPow (fieldMul a b) n := by
  induction n with
  | zero => rfl
  | succ n ih => rw [timesXPow, fieldMul_timesX_left, ih]; rfl

theorem xPow_fieldMul (b : BitVec 8) (n : Nat) : fieldMul (timesXPow 1#8 n) b = timesXPow b n := by
  rw [timesXPow_fieldMul, one_fieldMul]

/-- Every byte is a sum of powers of x, so an additive property that holds of these holds of every byte. -/
theorem byte_induction {P : BitVec 8 → Prop} (hzero : P 0#8) (hpow : ∀ n, P (timesXPow 1#8 n))
    (hxor : ∀ a b, P a → P b → P (a ^^^ b)) (b : BitVec 8) : P b := by
  have hpartial (n : Nat) : P (partialProduct 1#8 b n) := by
    induction n with
    | zero => exact hzero
    | succ n ih =>
      rw [partialProduct_succ]
      refine hxor _ _ ih ?_
      split
      · exact hpow n
      · exact hzero
  rw [← one_fieldMul b]
  exact fieldMul_eq_partialProduct 1#8 b ▸ hpartial 8

theorem fieldMul_assoc (a b c : BitVec 8) : fieldMul (fieldMul a b) c = fieldMul a (fieldMul b c) := by
  induction a using byte_induction with
  | hzero => simp only [zero_fieldMul]
  | hpow n => rw [xPow_fieldMul, xPow_fieldMul, timesXPow_fieldMul]
  | hxor a a' ih ih' => simp only [fieldMul_xor_left, ih, ih']

theorem fieldMul_comm (a b : BitVec 8) : fieldMul a b = fieldMul b a := by
  induction a using byte_induction with
  | hzero => rw [zero_fieldMul, fieldMul_zero]
  | hxor a a' ih ih' => rw [fieldMul_xor_left, fieldMul_xor_right, ih, ih']
  | hpow m =>
    induction b using byte_induction with
    | hzero => rw [zero_fieldMul, fieldMul_zero]
    | hxor b b' ih ih' => rw [fieldMul_xor_left, fieldMul_xor_right, ih, ih']
    | hpow n => rw [xPow_fieldMul, xPow_fieldMul, timesXPow_timesXPow, timesXPow_timesXPow, Nat.add_comm]

/-! ## The ring -/

/-- The bytes as the elements of GF(256): a name of its own, since BitVec 8 has the arithmetic modulo 256 as its ring. -/
def GF256 : Type := BitVec 8

/-- XOR and carry-less multiplication make the bytes a commutative ring. -/
@[reducible] def gf256Ring : CommRing GF256 where
  add (a b : BitVec 8) := a ^^^ b
  zero := 0#8
  neg a := a
  sub (a b : BitVec 8) := a ^^^ b
  mul a b := fieldMul a b
  one := 1#8
  nsmul := @nsmulRec (BitVec 8) ⟨0#8⟩ ⟨(· ^^^ ·)⟩
  zsmul := @zsmulRec (BitVec 8) ⟨0#8⟩ ⟨(· ^^^ ·)⟩ ⟨id⟩ (@nsmulRec (BitVec 8) ⟨0#8⟩ ⟨(· ^^^ ·)⟩)
  add_assoc := BitVec.xor_assoc
  add_comm := BitVec.xor_comm
  zero_add _ := BitVec.zero_xor
  add_zero _ := BitVec.xor_zero
  neg_add_cancel _ := BitVec.xor_self
  mul_assoc := fieldMul_assoc
  mul_comm := fieldMul_comm
  one_mul := one_fieldMul
  mul_one a := (fieldMul_comm a 1#8).trans (one_fieldMul a)
  left_distrib := fieldMul_xor_right
  right_distrib := fieldMul_xor_left
  zero_mul := zero_fieldMul
  mul_zero := fieldMul_zero

/-- The element x, whose powers are α^i (R112). -/
def gfX : GF256 := 2#8

theorem gfX_pow (n : Nat) : letI := gf256Ring; gfX ^ n = timesXPow 1#8 n := by
  let := gf256Ring
  induction n with
  | zero => exact pow_zero gfX
  | succ n ih =>
    have hx : fieldMul gfX (timesXPow 1#8 n) = timesX (timesXPow 1#8 n) := xPow_fieldMul (timesXPow 1#8 n) 1
    rw [pow_succ', ih]
    exact hx

/-- x^255 = 1, and x^m ≠ 1 for the quotients m = 85, 51, 15 of 255 and its prime factors. -/
theorem xPow_quotients : timesXPow 1#8 255 = 1#8 ∧ timesXPow 1#8 85 ≠ 1#8 ∧ timesXPow 1#8 51 ≠ 1#8 ∧
    timesXPow 1#8 15 ≠ 1#8 := by decide +kernel

/-- x is primitive (R112). -/
theorem orderOf_gfX : letI := gf256Ring; orderOf gfX = 255 := by
  let := gf256Ring
  obtain ⟨h255, h85, h51, h15⟩ := xPow_quotients
  refine orderOf_eq_of_pow_and_pow_div_prime (by decide) ((gfX_pow 255).trans h255) fun p hp hdvd => ?_
  have hmem : p ∈ Nat.primeFactorsList 255 := (Nat.mem_primeFactorsList (by decide)).2 ⟨hp, hdvd⟩
  have hlist : Nat.primeFactorsList 255 = [3, 5, 17] := by simp
  rw [hlist] at hmem
  rw [gfX_pow]
  simp only [List.mem_cons, List.not_mem_nil, or_false] at hmem
  rcases hmem with rfl | rfl | rfl
  · exact h85
  · exact h51
  · exact h15

theorem xPow_mod (n : Nat) : timesXPow 1#8 (n % 255) = timesXPow 1#8 n := by
  let := gf256Ring
  have h := pow_mod_orderOf gfX n
  rwa [orderOf_gfX, gfX_pow, gfX_pow] at h

theorem xPow_injOn {i j : Nat} (hi : i < 255) (hj : j < 255) (h : timesXPow 1#8 i = timesXPow 1#8 j) : i = j := by
  let := gf256Ring
  rw [← gfX_pow, ← gfX_pow] at h
  exact pow_injOn_Iio_orderOf (orderOf_gfX ▸ hi) (orderOf_gfX ▸ hj) h

theorem xPow_ne_zero {i : Nat} (hi : i < 255) : timesXPow 1#8 i ≠ 0#8 := fun h => by
  have hone : timesXPow (timesXPow 1#8 i) (255 - i) = 1#8 := by
    rw [timesXPow_timesXPow, Nat.add_sub_cancel' hi.le]; exact xPow_quotients.1
  rw [h, timesXPow_zero_left] at hone
  exact absurd hone (by decide)

/-- The 255 powers of x are the 255 bytes other than 0. -/
theorem exists_xPow {a : BitVec 8} (ha : a ≠ 0#8) : ∃ i, i < 255 ∧ timesXPow 1#8 i = a := by
  have hsubset : (Finset.range 255).image (timesXPow 1#8) ⊆ Finset.univ.erase 0#8 := fun b hb => by
    obtain ⟨i, hi, rfl⟩ := Finset.mem_image.1 hb
    exact Finset.mem_erase.2 ⟨xPow_ne_zero (Finset.mem_range.1 hi), Finset.mem_univ _⟩
  have hcard : ((Finset.range 255).image (timesXPow 1#8)).card = 255 := by
    rw [Finset.card_image_of_injOn, Finset.card_range]
    exact fun i hi j hj h => xPow_injOn (by simpa using hi) (by simpa using hj) h
  have hbytes : (Finset.univ.erase (0#8 : BitVec 8)).card = 255 := by
    rw [Finset.card_erase_of_mem (Finset.mem_univ _), Finset.card_univ, ← FinEnum.card_eq_fintypeCard, FinEnum.card_bitVec]
    rfl
  have hall := Finset.eq_of_subset_of_card_le hsubset (hbytes.trans hcard.symm).le
  have hmem : a ∈ (Finset.range 255).image (timesXPow 1#8) := hall ▸ Finset.mem_erase.2 ⟨ha, Finset.mem_univ a⟩
  obtain ⟨i, hi, h⟩ := Finset.mem_image.1 hmem
  exact ⟨i, Finset.mem_range.1 hi, h⟩

/-! ## The tables (R113) -/

/-- A turn of the table build multiplies by x. -/
theorem gfNextPower_toNat (v : BitVec 8) : gfNextPower v.toNat = (timesX v).toNat := by
  revert v
  decide

theorem buildTables_succ_alog (n i : Nat) (v : BitVec 8) (log : List (Option (BitVec 8))) :
    (buildTables (n + 1) i v.toNat log).alog =
      v :: (buildTables n (i + 1) (timesX v).toNat (log.set v.toNat (some (BitVec.ofNat 8 i)))).alog := by
  simp only [buildTables, gfNextPower_toNat, BitVec.ofNat_toNat, BitVec.setWidth_eq]

theorem buildTables_succ_log (n i : Nat) (v : BitVec 8) (log : List (Option (BitVec 8))) :
    (buildTables (n + 1) i v.toNat log).log =
      (buildTables n (i + 1) (timesX v).toNat (log.set v.toNat (some (BitVec.ofNat 8 i)))).log := by
  simp only [buildTables, gfNextPower_toNat]

theorem buildTables_alog (n i : Nat) (v : BitVec 8) (log : List (Option (BitVec 8))) :
    (buildTables n i v.toNat log).alog = (List.range n).map (timesXPow v) := by
  induction n generalizing i v log with
  | zero => rfl
  | succ n ih =>
    rw [buildTables_succ_alog, ih, List.range_succ_eq_map, List.map_cons, List.map_map]
    exact congrArg (v :: ·) (List.map_congr_left fun j _ => timesXPow_timesX v j)

theorem buildTables_log_length (n i : Nat) (v : BitVec 8) (log : List (Option (BitVec 8))) :
    (buildTables n i v.toNat log).log.length = log.length := by
  induction n generalizing i v log with
  | zero => rfl
  | succ n ih => rw [buildTables_succ_log, ih, List.length_set]

/-- A value the turns do not reach keeps its LOG entry. -/
theorem buildTables_log_of_ne {n : Nat} {v w : BitVec 8} (h : ∀ j, j < n → timesXPow v j ≠ w) (i : Nat)
    (log : List (Option (BitVec 8))) : (buildTables n i v.toNat log).log[w.toNat]? = log[w.toNat]? := by
  induction n generalizing i v log with
  | zero => rfl
  | succ n ih =>
    have hrest : ∀ j, j < n → timesXPow (timesX v) j ≠ w := fun j hj => by
      rw [timesXPow_timesX]; exact h (j + 1) (by omega)
    have hv : v.toNat ≠ w.toNat := fun e => h 0 (by omega) (BitVec.eq_of_toNat_eq e)
    rw [buildTables_succ_log, ih hrest, List.getElem?_set_ne hv]

/-- The value of turn `j`, reached by no later turn, has its index in LOG. -/
theorem buildTables_log_of_last {n j : Nat} {v : BitVec 8} {log : List (Option (BitVec 8))} (hlen : log.length = 256)
    (hj : j < n) (hlast : ∀ m, j < m → m < n → timesXPow v m ≠ timesXPow v j) (i : Nat) :
    (buildTables n i v.toNat log).log[(timesXPow v j).toNat]? = some (some (BitVec.ofNat 8 (i + j))) := by
  induction n generalizing i j v log with
  | zero => omega
  | succ n ih =>
    rw [buildTables_succ_log]
    cases j with
    | zero =>
      have hrest : ∀ j, j < n → timesXPow (timesX v) j ≠ v := fun j hj => by
        rw [timesXPow_timesX]; exact hlast (j + 1) (by omega) (by omega)
      have hin : v.toNat < log.length := hlen ▸ v.isLt
      exact (buildTables_log_of_ne hrest _ _).trans (List.getElem?_set_self hin)
    | succ j =>
      have hrest : ∀ m, j < m → m < n → timesXPow (timesX v) m ≠ timesXPow (timesX v) j := fun m hjm hm => by
        rw [timesXPow_timesX, timesXPow_timesX]; exact hlast (m + 1) (by omega) (by omega)
      have hset : (log.set v.toNat (some (BitVec.ofNat 8 i))).length = 256 := List.length_set.trans hlen
      have h := ih hset (by omega) hrest (i + 1)
      rwa [timesXPow_timesX, Nat.add_right_comm, Nat.add_assoc] at h

theorem gfTables_alog : gfTables.alog = (List.range 255).map (timesXPow 1#8) := buildTables_alog 255 0 1#8 _

theorem gfTables_log_zero : gfTables.log[0]? = some none :=
  (buildTables_log_of_ne (w := 0#8) (fun _ hj => xPow_ne_zero hj) 0 _).trans (List.getElem?_replicate_of_lt (by decide))

theorem gfTables_log_xPow {i : Nat} (hi : i < 255) :
    gfTables.log[(timesXPow 1#8 i).toNat]? = some (some (BitVec.ofNat 8 i)) := by
  have h := buildTables_log_of_last (List.length_replicate (n := 256) (a := (none : Option (BitVec 8)))) hi
    (fun m hm hlt e => absurd (xPow_injOn hlt hi e) (by omega)) 0
  rwa [Nat.zero_add] at h

theorem alogOf_gfTables {i : Nat} (hi : i < 255) : alogOf gfTables i = timesXPow 1#8 i := by
  simp [alogOf, gfTables_alog, hi]

theorem logOf_xPow {i : Nat} (hi : i < 255) : logOf gfTables (timesXPow 1#8 i) = i := by
  have hmod : i % 256 = i := by omega
  simp [logOf, List.getD_eq_getElem?_getD, gfTables_log_xPow hi, hmod]

/-- ALOG's indices are taken modulo 255 (log entry 25). -/
theorem alphaPower_gfTables (i : Nat) : alphaPower gfTables i = timesXPow 1#8 i := by
  rw [alphaPower, alogOf_gfTables (Nat.mod_lt _ (by decide)), xPow_mod]

/-- The powers of x that R113 names. -/
theorem xPow_values : (List.range 16).map (timesXPow 1#8) = [1, 2, 4, 8, 16, 32, 64, 128, 45, 90, 180, 69, 138, 57, 114, 228] ∧
    timesXPow 1#8 240 = 3 ∧ timesXPow 1#8 225 = 5 ∧ timesXPow 1#8 254 = 150 := by decide +kernel

/-- Settles O20: ALOG holds the powers of x in order, which are distinct, and LOG their exponents. -/
theorem gfTableValues : Obligations.GfTableValues := by
  obtain ⟨hfirst, h240, h225, h254⟩ := xPow_values
  have htwo : logOf gfTables 2 = 1 := logOf_xPow (i := 1) (by decide)
  have hthree : logOf gfTables 3 = 240 := h240 ▸ logOf_xPow (i := 240) (by decide)
  have hfour : logOf gfTables 4 = 2 := logOf_xPow (i := 2) (by decide)
  have hfive : logOf gfTables 5 = 225 := h225 ▸ logOf_xPow (i := 225) (by decide)
  refine ⟨finishInit_gf, ?_, ?_, ?_, ?_, ?_, htwo, hthree, hfour, hfive, ?_, ?_, fun i hi => ?_⟩
  · rw [gfTables_alog, ← List.map_take, List.take_range]; exact hfirst
  · rw [gfTables_alog, List.length_map, List.length_range]
  · rw [gfTables_alog]
    exact List.nodup_range.map_on fun i hi j hj h => xPow_injOn (List.mem_range.1 hi) (List.mem_range.1 hj) h
  · rw [alogOf_gfTables (by decide), h254]
  · rw [gfTables_alog, List.mem_map]
    rintro ⟨i, hi, h⟩
    exact xPow_ne_zero (List.mem_range.1 hi) h
  · rw [List.getD_eq_getElem?_getD, gfTables_log_zero]; rfl
  · exact (buildTables_log_length 255 0 1#8 _).trans List.length_replicate
  · rw [alogOf_gfTables hi]; exact ⟨rfl, logOf_xPow hi⟩

/-! ## gmul (R114) -/

/-- gmul is carry-less multiplication: with a factor 0 by its test, and else as a sum of the exponents of x. -/
theorem gmul_eq_fieldMul (a b : BitVec 8) : gmul gfTables a b = fieldMul a b := by
  by_cases ha : a = 0#8
  · rw [gmul, if_pos (.inl ha), ha, zero_fieldMul]
  by_cases hb : b = 0#8
  · rw [gmul, if_pos (.inr hb), hb, fieldMul_zero]
  obtain ⟨i, hi, rfl⟩ := exists_xPow ha
  obtain ⟨j, hj, rfl⟩ := exists_xPow hb
  rw [gmul, if_neg (by simp [ha, hb]), logOf_xPow hi, logOf_xPow hj, alogOf_gfTables (Nat.mod_lt _ (by decide)),
    xPow_mod, xPow_fieldMul, timesXPow_timesXPow, Nat.add_comm]

theorem logOf_set_zero {a : BitVec 8} (ha : a ≠ 0#8) (t : GfTables) (x : Option (BitVec 8)) :
    logOf { t with log := t.log.set 0 x } a = logOf t a := by
  have hne : (0 : Nat) ≠ a.toNat := fun h => ha (BitVec.eq_of_toNat_eq h.symm)
  simp only [logOf, List.getD_eq_getElem?_getD, List.getElem?_set_ne hne]

theorem gmul_set_zero (t : GfTables) (x : Option (BitVec 8)) (a b : BitVec 8) :
    gmul { t with log := t.log.set 0 x } a b = gmul t a b := by
  unfold gmul
  by_cases h : a = 0#8 ∨ b = 0#8
  · rw [if_pos h, if_pos h]
  · obtain ⟨ha, hb⟩ := not_or.1 h
    rw [if_neg h, if_neg h, logOf_set_zero ha, logOf_set_zero hb]; rfl

/-- Settles O21: gmul has the laws of the ring. -/
theorem gmulIsFieldMultiplication : Obligations.GmulIsFieldMultiplication := by
  refine ⟨gmul_eq_fieldMul, fun a b => ?_, fun a b c => ?_, fun a => ?_, fun a b c => ?_, fun a b x => gmul_set_zero _ x a b⟩
  · simp only [gmul_eq_fieldMul]; exact fieldMul_comm a b
  · simp only [gmul_eq_fieldMul]; exact fieldMul_assoc a b c
  · rw [gmul_eq_fieldMul]; exact one_fieldMul a
  · simp only [gmul_eq_fieldMul]; exact fieldMul_xor_right a b c

end Sys2Proof.Proofs

end

section

/-! PROOF. Systematic cyclic codes over a commutative ring (42_ecc.md sections 2 to 5): the product of linear factors has its
roots, and data followed by the negated remainder register vanishes at every root of the generator polynomial. RS_ECC200
and PDF_ECC both rest on these. -/

namespace Sys2Proof.Proofs

section

variable {R : Type} [CommRing R]

/-! ## Polynomials as lists of coefficients -/

/-- The value at `x` of the polynomial with these coefficients, the highest degree first. -/
def evalHigh (x : R) (cs : List R) : R := cs.foldl (fun acc c => acc * x + c) 0

/-- The value at `x` of the polynomial with these coefficients, the lowest degree first. -/
def evalLow (x : R) : List R → R
  | [] => 0
  | c :: cs => c + x * evalLow x cs

theorem evalHigh_concat (x : R) (cs : List R) (c : R) : evalHigh x (cs ++ [c]) = evalHigh x cs * x + c := by
  simp [evalHigh]

theorem evalHigh_reverse (x : R) (cs : List R) : evalHigh x cs.reverse = evalLow x cs := by
  induction cs with
  | nil => rfl
  | cons c cs ih => rw [List.reverse_cons, evalHigh_concat, ih, evalLow]; ring

theorem evalLow_append (x : R) (cs ds : List R) :
    evalLow x (cs ++ ds) = evalLow x cs + x ^ cs.length * evalLow x ds := by
  induction cs with
  | nil => simp [evalLow]
  | cons c cs ih => rw [List.cons_append, evalLow, ih, evalLow, List.length_cons]; ring

theorem evalLow_singleton (x c : R) : evalLow x [c] = c := by simp [evalLow]

theorem evalLow_map_mul (x r : R) (cs : List R) : evalLow x (cs.map (· * r)) = evalLow x cs * r := by
  induction cs with
  | nil => simp [evalLow]
  | cons c cs ih => rw [List.map_cons, evalLow, ih, evalLow]; ring

theorem evalLow_map_neg (x : R) (cs : List R) : evalLow x (cs.map (- ·)) = - evalLow x cs := by
  induction cs with
  | nil => simp [evalLow]
  | cons c cs ih => rw [List.map_cons, evalLow, ih, evalLow]; ring

/-- A combination of two polynomials of one length, coefficient by coefficient. -/
theorem evalLow_zipWith (x m : R) {cs ds : List R} (hlen : cs.length = ds.length) :
    evalLow x (List.zipWith (fun c d => c + m * d) cs ds) = evalLow x cs + m * evalLow x ds := by
  induction cs generalizing ds with
  | nil =>
    obtain rfl : ds = [] := List.length_eq_zero_iff.1 hlen.symm
    simp [evalLow]
  | cons c cs ih =>
    cases ds with
    | nil => cases hlen
    | cons d ds =>
      rw [List.zipWith_cons_cons, evalLow, ih (by simpa using hlen), evalLow, evalLow]; ring

theorem evalHigh_append (x : R) (cs ds : List R) :
    evalHigh x (cs ++ ds) = evalHigh x cs * x ^ ds.length + evalHigh x ds := by
  induction ds using List.reverseRecOn with
  | nil => simp [evalHigh]
  | append_singleton ds d ih =>
    rw [← List.append_assoc, evalHigh_concat, evalHigh_concat, ih, List.length_append, List.length_singleton]; ring

/-! ## Products of linear factors (R115, R121) -/

/-- The product of a polynomial, lowest coefficient first, and (x + r). -/
def mulLinear (g : List R) (r : R) : List R := List.zipWith (· + ·) (0 :: g) (g.map (· * r) ++ [0])

/-- The product of (x + r) over the listed r, times `g`. -/
def linearProduct (rs g : List R) : List R := rs.foldl mulLinear g

theorem evalLow_mulLinear (x r : R) (g : List R) : evalLow x (mulLinear g r) = evalLow x g * (x + r) := by
  have h := evalLow_zipWith x 1 (cs := 0 :: g) (ds := g.map (· * r) ++ [0]) (by simp)
  simp only [one_mul] at h
  rw [mulLinear, h, evalLow, evalLow_append, evalLow_map_mul, evalLow_singleton]
  ring

theorem evalLow_linearProduct (x : R) (rs g : List R) :
    evalLow x (linearProduct rs g) = evalLow x g * (rs.map (x + ·)).prod := by
  induction rs generalizing g with
  | nil => simp [linearProduct]
  | cons r rs ih =>
    have h := ih (mulLinear g r)
    rw [evalLow_mulLinear] at h
    rw [List.map_cons, List.prod_cons, ← mul_assoc]
    exact h

/-- The polynomial, lowest coefficient first, has degree `k` and leading coefficient 1. -/
def MonicOfDegree (k : Nat) (g : List R) : Prop := ∃ h : List R, h.length = k ∧ g = h ++ [1]

theorem monic_mulLinear {k : Nat} {g : List R} (hg : MonicOfDegree k g) (r : R) :
    MonicOfDegree (k + 1) (mulLinear g r) := by
  obtain ⟨h, rfl, rfl⟩ := hg
  refine ⟨List.zipWith (· + ·) (0 :: h) ((h ++ [1]).map (· * r)), by simp, ?_⟩
  rw [mulLinear, ← List.cons_append, List.zipWith_append (by simp)]
  simp

theorem monic_linearProduct {k : Nat} {g : List R} (hg : MonicOfDegree k g) (rs : List R) :
    MonicOfDegree (k + rs.length) (linearProduct rs g) := by
  induction rs generalizing k g with
  | nil => exact hg
  | cons r rs ih =>
    rw [List.length_cons, Nat.add_comm rs.length, ← Nat.add_assoc]
    exact ih (monic_mulLinear hg r)

theorem monic_linearProduct_one (rs : List R) : MonicOfDegree rs.length (linearProduct rs [1]) :=
  Nat.zero_add rs.length ▸ monic_linearProduct ⟨[], rfl, rfl⟩ rs

/-- The generator polynomial with the factors (x + r), lowest coefficient first, without its leading 1. -/
def generator (rs : List R) : List R := (linearProduct rs [1]).take rs.length

theorem generator_concat_one (rs : List R) : generator rs ++ [1] = linearProduct rs [1] := by
  obtain ⟨h, hlen, hprod⟩ := monic_linearProduct_one rs
  rw [generator, hprod, List.take_left' hlen]

@[simp] theorem length_generator (rs : List R) : (generator rs).length = rs.length := by
  obtain ⟨h, hlen, hprod⟩ := monic_linearProduct_one rs
  rw [generator, hprod, List.take_left' hlen, hlen]

/-- `x` is a root of the polynomial with the coefficients `g`, lowest first, and then a leading 1. -/
def IsRoot (g : List R) (x : R) : Prop := evalLow x (g ++ [1]) = 0

theorem isRoot_generator {rs : List R} {r x : R} (hr : r ∈ rs) (hx : x + r = 0) : IsRoot (generator rs) x := by
  have hfactor : (rs.map (x + ·)).prod = 0 := List.prod_eq_zero (hx ▸ List.mem_map_of_mem hr)
  rw [IsRoot, generator_concat_one, evalLow_linearProduct, hfactor, mul_zero]

theorem evalHigh_one_cons_reverse (x : R) (g : List R) : evalHigh x (1 :: g.reverse) = evalLow x (g ++ [1]) := by
  rw [← evalHigh_reverse, List.reverse_append]; rfl

theorem IsRoot.evalLow_eq {g : List R} {x : R} (h : IsRoot g x) : evalLow x g = - x ^ g.length := by
  rw [IsRoot, evalLow_append, evalLow_singleton, mul_one] at h
  exact eq_neg_of_add_eq_zero_left h

/-! ## The remainder register (R117, R122) -/

/-- One data symbol into the remainder register of the generator with the stored coefficients `g`. -/
def remainderStep (g e : List R) (d : R) : List R :=
  List.zipWith (fun y c => y - (e.getLastD 0 + d) * c) (0 :: e.dropLast) g

/-- The remainder register after the data, from zero. -/
def remainder (g data : List R) : List R := data.foldl (remainderStep g) (List.replicate g.length 0)

theorem remainder_concat (g data : List R) (d : R) :
    remainder g (data ++ [d]) = remainderStep g (remainder g data) d := by simp [remainder]

theorem length_remainder {g : List R} (hg : g ≠ []) (data : List R) : (remainder g data).length = g.length := by
  have hpos : 0 < g.length := List.length_pos_of_ne_nil hg
  induction data using List.reverseRecOn with
  | nil => simp [remainder]
  | append_singleton data d ih =>
    rw [remainder_concat, remainderStep, List.length_zipWith, List.length_cons, List.length_dropLast, ih]
    omega

/-- Zero data leave the register at zero. -/
theorem remainder_of_zeros (g : List R) {data : List R} (hdata : ∀ d ∈ data, d = 0) :
    remainder g data = List.replicate g.length 0 := by
  have hstep : remainderStep g (List.replicate g.length 0) 0 = List.replicate g.length 0 := by
    cases g with
    | nil => rfl
    | cons c g =>
      rw [remainderStep, List.length_cons, List.replicate_succ', List.dropLast_concat, List.getLastD_concat,
        ← List.replicate_succ, ← List.replicate_succ']
      exact List.ext_getElem (by simp) fun i h1 h2 => by simp
  induction data using List.reverseRecOn with
  | nil => rfl
  | append_singleton data d ih =>
    obtain ⟨hrest, hd⟩ := List.forall_mem_append.1 hdata
    rw [remainder_concat, ih hrest, hd d (List.mem_singleton_self d), hstep]

/-- At a root of the generator a step multiplies the register's value by x and adds d · x^k: the shift moves the top
coefficient to x^k, and g replaces x^k there. -/
theorem evalLow_remainderStep {g e : List R} {x : R} (hroot : IsRoot g x) (hlen : e.length = g.length) (hg : g ≠ [])
    (d : R) : evalLow x (remainderStep g e d) = evalLow x e * x + d * x ^ g.length := by
  have hpos : 0 < g.length := List.length_pos_of_ne_nil hg
  obtain ⟨f, c, rfl⟩ := e.eq_nil_or_concat'.resolve_left (List.ne_nil_of_length_pos (hlen ▸ hpos))
  have hk : g.length = f.length + 1 := by simpa using hlen.symm
  have hzip := evalLow_zipWith x (-(c + d)) (cs := 0 :: f) (ds := g) hk.symm
  simp only [neg_mul, ← sub_eq_add_neg] at hzip
  rw [remainderStep, List.getLastD_concat, List.dropLast_concat, hzip, evalLow, hroot.evalLow_eq, evalLow_append,
    evalLow_singleton, hk]
  ring

/-- The register holds the remainder of data · x^k: the two have the same value at every root of the generator. -/
theorem evalLow_remainder {g : List R} {x : R} (hroot : IsRoot g x) (hg : g ≠ []) (data : List R) :
    evalLow x (remainder g data) = evalHigh x data * x ^ g.length := by
  induction data using List.reverseRecOn with
  | nil =>
    have hzeros (n : Nat) : evalLow x (List.replicate n 0) = 0 := by
      induction n with
      | zero => rfl
      | succ n ih => rw [List.replicate_succ, evalLow, ih]; ring
    simp [remainder, evalHigh, hzeros]
  | append_singleton data d ih =>
    rw [remainder_concat, evalLow_remainderStep hroot (length_remainder hg data) hg, ih, evalHigh_concat]
    ring

/-- Data followed by the negated remainder, highest degree first, vanishes at every root of the generator. -/
theorem evalHigh_codeword {g : List R} {x : R} (hroot : IsRoot g x) (hg : g ≠ []) (data : List R) :
    evalHigh x (data ++ (remainder g data).reverse.map (- ·)) = 0 := by
  rw [evalHigh_append, List.map_reverse, evalHigh_reverse, evalLow_map_neg, evalLow_remainder hroot hg, List.length_reverse,
    List.length_map, length_remainder hg]
  ring

end

end Sys2Proof.Proofs

end

section

/-! PROOF. RS_ECC200 (42_ecc.md sections 2 and 3): its generator polynomial and remainder register are those of a cyclic code over
GF(256), one code for each block; and the command's end, in the words of the statements. -/

namespace Sys2Proof.Proofs

open Sys2Proof Sys2Proof.Machine Sys2Proof.Claims

/-! ## The code over GF(256) -/

theorem evalField_eq_evalHigh (x : BitVec 8) (cs : List (BitVec 8)) :
    evalField x cs = @evalHigh GF256 gf256Ring x cs := rfl

/-- α^1 to α^k, the roots of GenPoly(k) (R115). -/
def xPowers (k : Nat) : List GF256 := (List.range' 1 k).map (timesXPow 1#8)

theorem length_xPowers (k : Nat) : (xPowers k).length = k := (List.length_map _).trans List.length_range'

theorem genProduct_eq_linearProduct (n i : Nat) (g : List (BitVec 8)) :
    genProduct gfTables n i g = @linearProduct GF256 gf256Ring ((List.range' i n).map (timesXPow 1#8)) g := by
  induction n generalizing i g with
  | zero => rfl
  | succ n ih =>
    rw [genProduct, ih, alphaPower_gfTables, mulRoot]
    simp only [gmul_eq_fieldMul]
    rfl

theorem genPoly_eq_generator (k : Nat) : genPoly gfTables k = @generator GF256 gf256Ring (xPowers k) := by
  unfold genPoly generator
  rw [genProduct_eq_linearProduct, length_xPowers]
  rfl

theorem length_genPoly (k : Nat) : (genPoly gfTables k).length = k := by
  rw [genPoly_eq_generator]
  exact (@length_generator GF256 gf256Ring (xPowers k)).trans (length_xPowers k)

/-- GenPoly(k) vanishes at α^i for i = 1 to k, as α^i + α^i = 0. -/
theorem isRoot_genPoly {k i : Nat} (h1 : 1 ≤ i) (hi : i ≤ k) :
    @IsRoot GF256 gf256Ring (genPoly gfTables k) (timesXPow 1#8 i) := by
  have hmem : timesXPow 1#8 i ∈ xPowers k := List.mem_map_of_mem (List.mem_range'_1.2 (by omega))
  rw [genPoly_eq_generator]
  exact @isRoot_generator GF256 gf256Ring _ _ _ hmem BitVec.xor_self

/-- Settles O22: GenPoly(k) with its leading 1 is the product of the factors (x + α^i). -/
theorem generatorPolynomialHasItsRoots : Obligations.GeneratorPolynomialHasItsRoots := by
  intro k i _ _ h1 hi
  refine ⟨length_genPoly k, ?_⟩
  rw [evalField_eq_evalHigh]
  exact (@evalHigh_one_cons_reverse GF256 gf256Ring _ _).trans (isRoot_genPoly h1 hi)

theorem rsRemainder_eq_remainder (g data : List (BitVec 8)) :
    rsRemainder gfTables g data = @remainder GF256 gf256Ring g data := by
  have hstep : rsStep gfTables = @remainderStep GF256 gf256Ring := by
    funext g e d
    simp only [rsStep, gmul_eq_fieldMul]
    rfl
  rw [rsRemainder, hstep]
  rfl

theorem genPoly_ne_nil {k : Nat} (hk : 1 ≤ k) : genPoly gfTables k ≠ [] :=
  List.ne_nil_of_length_pos ((length_genPoly k).symm ▸ hk)

theorem length_blockEcc {k : Nat} (hk : 1 ≤ k) (B : Nat) (data : List (BitVec 8)) (b : Nat) :
    (blockEcc gfTables k B data b).length = k := by
  rw [blockEcc, List.length_reverse, rsRemainder_eq_remainder]
  exact (@length_remainder GF256 gf256Ring _ (genPoly_ne_nil hk) _).trans (length_genPoly k)

/-- The codewords of a block vanish at every root of the generator; a byte is its own negative. -/
theorem evalField_block {k i : Nat} (h1 : 1 ≤ i) (hi : i ≤ k) (B : Nat) (data : List (BitVec 8)) (b : Nat) :
    evalField (timesXPow 1#8 i) (blockData B b data ++ blockEcc gfTables k B data b) = 0#8 := by
  have h := @evalHigh_codeword GF256 gf256Ring _ _ (isRoot_genPoly h1 hi) (genPoly_ne_nil (h1.trans hi))
    (blockData B b data)
  have hneg (l : List GF256) : l.map (@Neg.neg GF256 gf256Ring.toNeg) = l := List.map_id l
  rw [hneg] at h
  rw [evalField_eq_evalHigh, blockEcc, rsRemainder_eq_remainder]
  exact h

/-! ## The blocks in CW (R116) -/

/-- The elements of a list at the indices of a block. -/
theorem blockData_map_range (B b N : Nat) (f : Nat → BitVec 8) :
    blockData B b ((List.range N).map f) = ((List.range N).filter (fun d => d % B = b)).map f := by
  induction N with
  | zero => rfl
  | succ N ih =>
    unfold blockData at ih ⊢
    rw [List.range_succ, List.map_append, List.zipIdx_append, List.filter_append, List.map_append, ih, List.filter_append,
      List.map_append]
    congr 1
    by_cases h : N % B = b <;> simp [h]

/-- The entries of rows of one length, laid out one after the other. -/
theorem getElem?_flatMap_range {α : Type} {f : Nat → List α} {B j b k : Nat} (hf : ∀ j, (f j).length = B) (hb : b < B)
    (hj : j < k) : ((List.range k).flatMap f)[b + j * B]? = (f j)[b]? := by
  induction k with
  | zero => omega
  | succ k ih =>
    have hlen : ((List.range k).flatMap f).length = k * B := by simp [List.length_flatMap, hf]
    rw [List.range_succ, List.flatMap_append, List.flatMap_singleton]
    by_cases hjk : j < k
    · have hin : b + j * B < k * B := by
        have : (j + 1) * B ≤ k * B := Nat.mul_le_mul_right B hjk
        rw [Nat.add_mul] at this
        omega
      rw [List.getElem?_append_left (hlen ▸ hin), ih hjk]
    · obtain rfl : j = k := by omega
      rw [List.getElem?_append_right (by omega), hlen, Nat.add_sub_cancel]

/-- ECC codeword j of block b is entry b + j · B of the ECC area. -/
theorem getElem?_eccArea {t : GfTables} {k B b j : Nat} (hb : b < B) (hj : j < k) (data : List (BitVec 8)) :
    (eccArea t k B data)[b + j * B]? = some ((blockEcc t k B data b).getD j 0#8) := by
  rw [eccArea, getElem?_flatMap_range (by simp) hb hj]
  simp [hb]

theorem map_getD_range {α : Type} {l : List α} {k : Nat} (hl : l.length = k) (d : α) :
    (List.range k).map (fun j => l.getD j d) = l := by
  subst hl
  exact List.ext_getElem (by simp) fun j h1 h2 => by simp [h2]

/-! ## The end of a command that appends to CW -/

/-- The state a command leaves that completes after writing CW from entry `N` on (R86, R117, R122). -/
def doneAppending (s : State) (N : Nat) (ws : List (BitVec 16)) (r0 r1 : Nat) : State :=
  { doneState s r0 r1 with cw := s.cw.writeBlock N ws }

theorem read_doneAppending (s : State) (N : Nat) (ws : List (BitVec 16)) (r0 r1 i : Nat) :
    (doneAppending s N ws r0 r1).cw.read i =
      if N ≤ i ∧ i < N + ws.length then ws[i - N]? else s.cw.read i := Ram.read_writeBlock ..

/-- The data stay as they were. -/
theorem read_doneAppending_data {s : State} {xs : List Nat} (hcw : CwHolds s xs) (ws : List (BitVec 16)) (r0 r1 : Nat)
    {d : Nat} (hd : d < xs.length) :
    ((doneAppending s xs.length ws r0 r1).cw.read d).map BitVec.toNat = some xs[d] := by
  rw [read_doneAppending, if_neg (by omega), hcw.2 d hd, List.getElem?_eq_getElem hd]

theorem read_doneAppending_appended (s : State) (N : Nat) {ws : List (BitVec 16)} (r0 r1 : Nat) {p : Nat}
    (hp : p < ws.length) : (doneAppending s N ws r0 r1).cw.read (N + p) = some ws[p] := by
  rw [read_doneAppending, if_pos (by omega), Nat.add_sub_cancel_left, List.getElem?_eq_getElem hp]

/-- The entries as numbers: those appended, and every other one as it was. -/
theorem read_doneAppending_toNat (s : State) (N : Nat) (ws : List (BitVec 16)) (r0 r1 i : Nat) :
    ((doneAppending s N ws r0 r1).cw.read i).map BitVec.toNat =
      if N ≤ i ∧ i < N + ws.length then (ws.map BitVec.toNat)[i - N]? else (s.cw.read i).map BitVec.toNat := by
  rw [read_doneAppending]
  split
  · rw [List.getElem?_map]
  · rfl

/-! ## RS_ECC200 (R117) -/

/-- The words RS_ECC200 appends to the data `xs`. -/
def rsWords (E B : Nat) (xs : List Nat) : List (BitVec 16) :=
  (eccArea gfTables (E / B) B (xs.map (BitVec.ofNat 8))).map (BitVec.setWidth 16)

section

variable {s : State} {xs : List Nat}

theorem length_rsWords {N E B : Nat} (hshape : EccShape N E B) (xs : List Nat) : (rsWords E B xs).length = E := by
  rw [rsWords, List.length_map, length_eccArea, Nat.div_mul_cancel (Nat.dvd_of_mod_eq_zero hshape.2.2.1)]

theorem exec_rsEcc200 (hcw : CwHolds s xs) (hbytes : ∀ x ∈ xs, x ≤ 255) (hgf : s.gf = some gfTables)
    (hshape : EccShape xs.length s.arg1.toNat s.arg2.toNat) :
    exec .rsEcc200 s = .next (doneAppending s xs.length (rsWords s.arg1.toNat s.arg2.toNat xs)
      (xs.length + s.arg1.toNat) (s.arg1.toNat / s.arg2.toNat)) := by
  obtain ⟨-, -, -, hk, hdepth⟩ := id hshape
  have hlen : lenN s = xs.length := hcw.1
  have hread : readRanged s 255 0 xs.length = .ok xs := hlen ▸ readRanged_of_cwHolds hcw hbytes
  have htables : readTables s = .ok gfTables := by rw [readTables, hgf]
  have hok : eccShapeOk (arg1N s) (arg2N s) = true := eccShapeOk_of hshape
  have hfits : decide (xs.length + arg1N s ≤ Config.cwDepth) = true := decide_eq_true hdepth
  simp only [exec, execRsEcc200, hlen, require_of hok, require_of hfits, hread, htables, work_ok_bind, finish_ok]
  exact congrArg Host.Outcome.next (complete_eq_doneState (by unfold arg1N; omega) (by unfold arg1N arg2N; omega) _)

/-- Settles O23: the words appended are bytes, one for each entry of the ECC area. -/
theorem rsEcc200Completes : Obligations.RsEcc200Completes := by
  intro s xs hcw hbytes hgf hshape
  have hlen := length_rsWords hshape xs
  refine ⟨(rsWords s.arg1.toNat s.arg2.toNat xs).map BitVec.toNat, _, by rw [List.length_map, hlen], fun x hx => ?_,
    exec_rsEcc200 hcw hbytes hgf hshape, rfl, fun i => ?_⟩
  · obtain ⟨w, hw, rfl⟩ := List.mem_map.1 hx
    obtain ⟨v, -, rfl⟩ := List.mem_map.1 hw
    have := v.isLt
    rw [BitVec.toNat_setWidth]
    omega
  · rw [read_doneAppending_toNat, hlen]

/-- The data codewords as the bytes of CW after the command. -/
theorem map_cwByte_data (hcw : CwHolds s xs) (ws : List (BitVec 16)) (r0 r1 : Nat) :
    (List.range xs.length).map (cwByte (doneAppending s xs.length ws r0 r1)) = xs.map (BitVec.ofNat 8) := by
  refine List.ext_getElem (by simp) fun d h1 h2 => ?_
  have hd : d < xs.length := by simpa using h2
  obtain ⟨v, hv, hvd⟩ := Option.map_eq_some_iff.1 (read_doneAppending_data hcw ws r0 r1 hd)
  simp only [List.getElem_map, List.getElem_range, cwByte, hv, Option.getD_some, ← hvd]
  rfl

/-- ECC codeword j of block b as a byte of CW after the command (R116). -/
theorem cwByte_ecc (s : State) {N E B : Nat} (xs : List Nat) (r0 r1 : Nat) {b j : Nat}
    (hb : b < B) (hj : j < E / B) :
    cwByte (doneAppending s N (rsWords E B xs) r0 r1) (N + b + j * B) =
      (blockEcc gfTables (E / B) B (xs.map (BitVec.ofNat 8)) b).getD j 0#8 := by
  have harea := getElem?_eccArea (t := gfTables) hb hj (xs.map (BitVec.ofNat 8))
  obtain ⟨hp, hval⟩ := List.getElem?_eq_some_iff.1 harea
  have hw : b + j * B < (rsWords E B xs).length := (List.length_map _).symm ▸ hp
  rw [cwByte, Nat.add_assoc, read_doneAppending_appended s N _ _ hw, Option.getD_some, ← hval]
  simp only [rsWords, List.getElem_map]
  exact BitVec.setWidth_setWidth_of_le _ (by decide)

/-- The codewords of a block after the command: its data and the remainder its code appends to them. -/
theorem blockWords_doneAppending (hcw : CwHolds s xs) {E B b : Nat} (r0 r1 : Nat)
    (hb : b < B) (hk : 1 ≤ E / B) :
    blockWords (doneAppending s xs.length (rsWords E B xs) r0 r1) xs.length B (E / B) b =
      blockData B b (xs.map (BitVec.ofNat 8)) ++ blockEcc gfTables (E / B) B (xs.map (BitVec.ofNat 8)) b := by
  rw [blockWords, List.map_append, ← blockData_map_range, map_cwByte_data hcw, List.map_map,
    ← map_getD_range (length_blockEcc hk B (xs.map (BitVec.ofNat 8)) b) 0#8]
  exact congrArg _ (List.map_congr_left fun j hj => cwByte_ecc s xs r0 r1 hb (List.mem_range.1 hj))

/-- Settles O24: the bytes of a block are its data and the remainder of its code. -/
theorem rsBlocksAreCodewords : Obligations.RsBlocksAreCodewords := by
  intro s xs hcw hbytes hgf hshape
  refine ⟨_, exec_rsEcc200 hcw hbytes hgf hshape, fun b i hb h1 hi => ?_⟩
  rw [blockWords_doneAppending hcw _ _ hb (h1.trans hi)]
  exact evalField_block h1 hi s.arg2.toNat _ b

/-- Zero data have zero ECC codewords (R118). -/
theorem eccArea_of_zeros {k B : Nat} {data : List (BitVec 8)} (hdata : ∀ d ∈ data, d = 0#8) :
    ∀ v ∈ eccArea gfTables k B data, v = 0#8 := by
  intro v hv
  obtain ⟨j, -, hv⟩ := List.mem_flatMap.1 hv
  obtain ⟨b, -, rfl⟩ := List.mem_map.1 hv
  have hblock : ∀ d ∈ blockData B b data, d = 0#8 := fun d hd => by
    obtain ⟨p, hp, rfl⟩ := List.mem_map.1 hd
    exact hdata _ (List.fst_mem_of_mem_zipIdx (List.mem_of_mem_filter hp))
  have hecc : blockEcc gfTables k B data b = List.replicate (genPoly gfTables k).length 0#8 := by
    have hrem := @remainder_of_zeros GF256 gf256Ring (genPoly gfTables k) _ hblock
    rw [blockEcc, rsRemainder_eq_remainder]
    exact (congrArg List.reverse hrem).trans List.reverse_replicate
  rw [hecc, List.getD_eq_getElem?_getD, List.getElem?_getD_replicate_default_eq]

/-- Settles O25: zero data leave every block's remainder register at zero. -/
theorem rsZeroDataGivesZeroEcc : Obligations.RsZeroDataGivesZeroEcc := by
  intro s n hcw hgf hshape
  have hbytes : ∀ x ∈ List.replicate n 0, x ≤ 255 := fun x hx => by rw [List.eq_of_mem_replicate hx]; decide
  rw [← List.length_replicate (n := n) (a := 0)] at hshape
  refine ⟨_, exec_rsEcc200 hcw hbytes hgf hshape, fun i hi hlt => ?_⟩
  obtain ⟨p, rfl⟩ := Nat.exists_eq_add_of_le hi
  have hp : p < (rsWords s.arg1.toNat s.arg2.toNat (List.replicate n 0)).length := by
    rw [length_rsWords hshape]; omega
  have hzero : ∀ w ∈ rsWords s.arg1.toNat s.arg2.toNat (List.replicate n 0), w = 0#16 := fun w hw => by
    obtain ⟨v, hv, rfl⟩ := List.mem_map.1 hw
    rw [eccArea_of_zeros (fun d hd => ?_) v hv]
    · rfl
    · rw [List.map_replicate] at hd; exact List.eq_of_mem_replicate hd
  have hread := read_doneAppending_appended s (List.replicate n 0).length ((List.replicate n 0).length + s.arg1.toNat)
    (s.arg1.toNat / s.arg2.toNat) hp
  rw [hzero _ (List.getElem_mem hp), List.length_replicate] at hread
  rwa [List.length_replicate]

end

end Sys2Proof.Proofs

end

section

/-! PROOF. PDF_ECC (42_ecc.md sections 4 and 5): its coefficients and accumulators, modulo 929, are those of a cyclic code over
ZMod 929; and the command's end, in the words of the statements. -/

namespace Sys2Proof.Proofs

open Sys2Proof Sys2Proof.Machine Sys2Proof.Claims

/-! ## Numbers modulo 929 -/

/-- The numbers of a list modulo 929. -/
def residues (l : List Nat) : List (ZMod 929) := l.map Nat.cast

@[simp] theorem length_residues (l : List Nat) : (residues l).length = l.length := List.length_map _

theorem residues_append (l l' : List Nat) : residues (l ++ l') = residues l ++ residues l' := List.map_append

theorem residues_singleton (x : Nat) : residues [x] = [(x : ZMod 929)] := rfl

theorem residue_sub_mod (x y : Nat) : ((x + 929 - y % 929 : Nat) : ZMod 929) = x - y := by
  have hle : y % 929 ≤ x + 929 := (Nat.mod_lt y (by decide)).le.trans (Nat.le_add_left ..)
  rw [Nat.cast_sub hle, Nat.cast_add, ZMod.natCast_self, add_zero, ZMod.natCast_mod]

theorem residue_neg {y : Nat} (hy : y ≤ 929) : ((929 - y : Nat) : ZMod 929) = - y := by
  rw [Nat.cast_sub hy, ZMod.natCast_self, zero_sub]

theorem eval929_concat (x : Nat) (cs : List Nat) (c : Nat) : eval929 x (cs ++ [c]) = (eval929 x cs * x + c) % 929 := by
  simp [eval929]

theorem residue_eval929 (x : Nat) (cs : List Nat) : (eval929 x cs : ZMod 929) = evalHigh (x : ZMod 929) (residues cs) := by
  induction cs using List.reverseRecOn with
  | nil => exact Nat.cast_zero
  | append_singleton cs c ih =>
    rw [eval929_concat, ZMod.natCast_mod, Nat.cast_add, Nat.cast_mul, ih, residues_append, residues_singleton,
      evalHigh_concat]

theorem eval929_lt (x : Nat) (cs : List Nat) : eval929 x cs < 929 := by
  induction cs using List.reverseRecOn with
  | nil => exact Nat.zero_lt_succ 928
  | append_singleton cs c _ => rw [eval929_concat]; exact Nat.mod_lt _ (by decide)

/-- A polynomial is 0 modulo 929 where it vanishes over ZMod 929. -/
theorem eval929_eq_zero {x : Nat} {cs : List Nat} (h : evalHigh (x : ZMod 929) (residues cs) = 0) : eval929 x cs = 0 := by
  rw [← residue_eval929, ZMod.natCast_eq_zero_iff] at h
  exact Nat.eq_zero_of_dvd_of_lt h (eval929_lt x cs)

/-! ## The coefficients (R121) -/

theorem residues_mulRootMod {root : Nat} (hroot : root ≤ 929) (g : List Nat) :
    residues (mulRootMod 929 root g) = mulLinear (residues g) (-(root : ZMod 929)) := by
  have hproduct : residues (g.map (fun a => a * (929 - root) % 929) ++ [0]) =
      (residues g).map (· * -(root : ZMod 929)) ++ [0] := by
    simp [residues, Function.comp_def, residue_neg hroot]
  have hsum (p q : List Nat) :
      residues (List.zipWith (fun a b => (a + b) % 929) p q) = List.zipWith (· + ·) (residues p) (residues q) := by
    simp [residues, List.map_zipWith, List.zipWith_map]
  rw [mulRootMod, hsum, hproduct, mulLinear]
  simp [residues]

/-- The factors (x − base^i) for `n` values of i, from `i` on. -/
theorem residues_powerProduct {base root : Nat} (n : Nat) {i : Nat} (hlt : root < 929)
    (hroot : (root : ZMod 929) = (base : ZMod 929) ^ i) (g : List Nat) :
    residues (powerProduct 929 base n root g) =
      linearProduct ((List.range' i n).map fun j => -(base : ZMod 929) ^ j) (residues g) := by
  induction n generalizing i root g with
  | zero => rfl
  | succ n ih =>
    have hnext : ((root * base % 929 : Nat) : ZMod 929) = (base : ZMod 929) ^ (i + 1) := by
      rw [ZMod.natCast_mod, Nat.cast_mul, hroot, pow_succ]
    rw [powerProduct, ih (Nat.mod_lt _ (by decide)) hnext, residues_mulRootMod hlt.le, hroot]
    rfl

/-- PDF_EC_COEFF[L] is the generator with the roots 3^i for i = 1 to 2^(L+1). -/
theorem residues_pdfEcCoeff (level : Nat) :
    residues (Config.pdfEcCoeff level) = generator ((List.range' 1 (2 ^ (level + 1))).map fun j => -(3 : ZMod 929) ^ j) := by
  have hproduct := residues_powerProduct (base := 3) (2 ^ (level + 1)) (i := 1) (by decide) (pow_one _).symm [1]
  have hone : residues [1] = [1] := by simp [residues]
  rw [hone] at hproduct
  rw [generator, List.length_map, List.length_range', residues, Config.pdfEcCoeff, monicCoefficients, List.map_take]
  exact congrArg _ hproduct

theorem length_pdfEcCoeff (level : Nat) : (Config.pdfEcCoeff level).length = 2 ^ (level + 1) := by
  rw [← length_residues, residues_pdfEcCoeff, length_generator, List.length_map, List.length_range']

theorem pdfEcCoeff_ne_nil (level : Nat) : residues (Config.pdfEcCoeff level) ≠ [] :=
  List.ne_nil_of_length_pos (by rw [length_residues, length_pdfEcCoeff]; exact Nat.two_pow_pos _)

theorem isRoot_pdfEcCoeff {level i : Nat} (h1 : 1 ≤ i) (hi : i ≤ 2 ^ (level + 1)) :
    IsRoot (residues (Config.pdfEcCoeff level)) ((3 : ZMod 929) ^ i) := by
  rw [residues_pdfEcCoeff]
  exact isRoot_generator (List.mem_map_of_mem (List.mem_range'_1.2 (by omega))) (add_neg_cancel _)

/-! ## The accumulators (R122) -/

theorem residues_pdfStep (a e : List Nat) (d : Nat) :
    residues (pdfStep a e d) = remainderStep (residues a) (residues e) d := by
  have hlast : (residues e).getLastD 0 = (e.getLastD 0 : Nat) := by
    rw [residues, List.getLastD_eq_getLast?, List.getLast?_map, List.getLastD_eq_getLast?]
    cases e.getLast? <;> simp
  have hshift : (0 : ZMod 929) :: (residues e).dropLast = residues (0 :: e.dropLast) := by
    simp [residues, List.map_dropLast]
  rw [remainderStep, hlast, hshift]
  simp only [pdfStep, residues, List.map_zipWith, List.zipWith_map, ZMod.natCast_mod, residue_sub_mod, Nat.cast_mul,
    Nat.cast_add, add_comm]

theorem pdfRemainder_concat (a data : List Nat) (d : Nat) :
    pdfRemainder a (data ++ [d]) = pdfStep a (pdfRemainder a data) d := by simp [pdfRemainder]

theorem residues_pdfRemainder (a data : List Nat) :
    residues (pdfRemainder a data) = remainder (residues a) (residues data) := by
  induction data using List.reverseRecOn with
  | nil => simp [pdfRemainder, remainder, residues]
  | append_singleton data d ih =>
    rw [pdfRemainder_concat, residues_pdfStep, ih, residues_append, residues_singleton, remainder_concat]

theorem pdfRemainder_lt (a data : List Nat) : ∀ x ∈ pdfRemainder a data, x < 929 := by
  induction data using List.reverseRecOn with
  | nil =>
    intro x hx
    rw [List.eq_of_mem_replicate hx]
    decide
  | append_singleton data d _ =>
    intro x hx
    rw [pdfRemainder_concat] at hx
    obtain ⟨i, hi, rfl⟩ := List.mem_iff_getElem.1 hx
    simp only [pdfStep, List.getElem_zipWith]
    exact Nat.mod_lt _ (by decide)

theorem residues_pdfEcc (a data : List Nat) :
    residues (pdfEcc a data) = (remainder (residues a) (residues data)).reverse.map (- ·) := by
  rw [← residues_pdfRemainder, residues, pdfEcc, residues, ← List.map_reverse, List.map_map, List.map_map]
  refine List.map_congr_left fun x hx => ?_
  have hle : x ≤ 929 := (pdfRemainder_lt a data x (List.mem_reverse.1 hx)).le
  simp only [Function.comp_apply, ZMod.natCast_mod, residue_neg hle]

theorem length_pdfEcc (level : Nat) (data : List Nat) :
    (pdfEcc (Config.pdfEcCoeff level) data).length = 2 ^ (level + 1) := by
  rw [← length_residues, residues_pdfEcc, List.length_map, List.length_reverse, length_remainder (pdfEcCoeff_ne_nil level),
    length_residues, length_pdfEcCoeff]

theorem pdfEcc_le (a data : List Nat) : ∀ x ∈ pdfEcc a data, x ≤ 928 := by
  intro x hx
  obtain ⟨y, -, rfl⟩ := List.mem_map.1 hx
  exact Nat.le_of_lt_succ (Nat.mod_lt _ (by decide))

/-- The data and the EC codewords vanish at 3^i for i = 1 to k (R124). -/
theorem eval929_codeword {level i : Nat} (h1 : 1 ≤ i) (hi : i ≤ 2 ^ (level + 1)) (data : List Nat) :
    eval929 (3 ^ i % 929) (data ++ pdfEcc (Config.pdfEcCoeff level) data) = 0 := by
  have hroot : ((3 ^ i % 929 : Nat) : ZMod 929) = 3 ^ i := by rw [ZMod.natCast_mod, Nat.cast_pow]; rfl
  refine eval929_eq_zero ?_
  rw [hroot, residues_append, residues_pdfEcc]
  exact evalHigh_codeword (isRoot_pdfEcCoeff h1 hi) (pdfEcCoeff_ne_nil level) _

/-! ## PDF_ECC (R122) -/

/-- The words PDF_ECC appends to the data `xs`. -/
def pdfWords (level : Nat) (xs : List Nat) : List (BitVec 16) :=
  (pdfEcc (Config.pdfEcCoeff level) xs).map (BitVec.ofNat 16)

theorem length_pdfWords (level : Nat) (xs : List Nat) : (pdfWords level xs).length = 2 ^ (level + 1) :=
  (List.length_map _).trans (length_pdfEcc level xs)

/-- An EC codeword fits an entry of CW. -/
theorem map_toNat_pdfWords (level : Nat) (xs : List Nat) :
    (pdfWords level xs).map BitVec.toNat = pdfEcc (Config.pdfEcCoeff level) xs := by
  rw [pdfWords, List.map_map]
  refine (List.map_congr_left fun x hx => ?_).trans (List.map_id _)
  have := pdfEcc_le _ _ x hx
  exact (BitVec.toNat_ofNat x 16).trans (Nat.mod_eq_of_lt (by omega))

section

variable {s : State} {xs : List Nat}

theorem exec_pdfEcc (hcw : CwHolds s xs) (hrange : ∀ x ∈ xs, x ≤ 928) (hlevel : s.arg1.toNat ≤ 8)
    (hdepth : xs.length + 2 ^ (s.arg1.toNat + 1) ≤ 4096) :
    exec .pdfEcc s = .next (doneAppending s xs.length (pdfWords s.arg1.toNat xs)
      (xs.length + 2 ^ (s.arg1.toNat + 1)) (2 ^ (s.arg1.toNat + 1))) := by
  have hlen : lenN s = xs.length := hcw.1
  have hread : readRanged s (Config.pdfCwCount - 1) 0 xs.length = .ok xs := hlen ▸ readRanged_of_cwHolds hcw hrange
  have hok : decide (arg1N s ≤ Config.pdfLevelMax) = true := decide_eq_true hlevel
  have hfits : decide (xs.length + 2 ^ (arg1N s + 1) ≤ Config.cwDepth) = true := decide_eq_true hdepth
  simp only [exec, execPdfEcc, hlen, require_of hok, require_of hfits, hread, work_ok_bind, finish_ok]
  exact congrArg Host.Outcome.next (complete_eq_doneState (by unfold arg1N; omega) (by unfold arg1N; omega) _)

/-- Settles O26: the words appended are the EC codewords, each below 929. -/
theorem pdfEccCompletes : Obligations.PdfEccCompletes := by
  intro s xs hcw hrange hlevel hdepth
  refine ⟨pdfEcc (Config.pdfEcCoeff s.arg1.toNat) xs, _, length_pdfEcc _ xs, pdfEcc_le _ xs,
    exec_pdfEcc hcw hrange hlevel hdepth, rfl, fun i => ?_⟩
  rw [read_doneAppending_toNat, length_pdfWords, map_toNat_pdfWords]

/-- CW[0, N + k) after the command: the data and the EC codewords. -/
theorem map_cwNum_doneAppending (hcw : CwHolds s xs) (ws : List (BitVec 16)) (r0 r1 : Nat) :
    (List.range (xs.length + ws.length)).map (cwNum (doneAppending s xs.length ws r0 r1)) =
      xs ++ ws.map BitVec.toNat := by
  rw [List.range_add, List.map_append, List.map_map]
  congr 1
  · refine List.ext_getElem (by simp) fun d h1 h2 => ?_
    obtain ⟨v, hv, hvd⟩ := Option.map_eq_some_iff.1 (read_doneAppending_data hcw ws r0 r1 h2)
    simp only [List.getElem_map, List.getElem_range, cwNum, hv, Option.getD_some, hvd]
  · refine List.ext_getElem (by simp) fun p h1 h2 => ?_
    have hp : p < ws.length := by simpa using h2
    simp only [List.getElem_map, List.getElem_range, Function.comp_apply, cwNum,
      read_doneAppending_appended s xs.length r0 r1 hp, Option.getD_some]

/-- Settles O27: CW[0, N + k) holds a word of the code whose generator has the roots 3^1 to 3^k. -/
theorem pdfCodewordHasItsRoots : Obligations.PdfCodewordHasItsRoots := by
  intro s xs hcw hrange hlevel hdepth
  refine ⟨_, exec_pdfEcc hcw hrange hlevel hdepth, fun i h1 hi => ?_⟩
  have hcodeword := map_cwNum_doneAppending hcw (pdfWords s.arg1.toNat xs) (xs.length + 2 ^ (s.arg1.toNat + 1))
    (2 ^ (s.arg1.toNat + 1))
  rw [length_pdfWords, map_toNat_pdfWords] at hcodeword
  rw [hcodeword]
  exact eval929_codeword h1 hi xs

end

/-- Settles O28: closed values, which the kernel evaluates. -/
theorem pdfEccExamples : Obligations.PdfEccExamples := by
  unfold Obligations.PdfEccExamples
  decide +kernel

end Sys2Proof.Proofs

end

section

/-! PROOF. The sheet of the placement (43_layout_matrix.md R129, R130): what a mark reads as, what one module does to it, and
the trail of the cells taken, from which the sheet is known. -/

namespace Sys2Proof.Proofs

open Sys2Proof Sys2Proof.Machine Sys2Proof.Claims

/-! ## The marks of a sheet -/

theorem isUnset_iff (sheet : List (List Mark)) (r c : Nat) : isUnset sheet r c = true ↔ markAt sheet r c = .unset := by
  unfold isUnset
  cases markAt sheet r c <;> simp

/-- Reading a sheet after a cell is taken. -/
theorem markAt_setMark {R C : Nat} {sheet : List (List Mark)} (h : Shaped R C sheet) {r c : Nat} (hr : r < R) (hc : c < C)
    (m : Mark) (r' c' : Nat) :
    markAt (setMark sheet r c m) r' c' = if r' = r ∧ c' = c then m else markAt sheet r' c' := by
  obtain ⟨hrows, hcols⟩ := h
  have hlen : (sheet[r]).length = C := hcols _ (List.getElem_mem (hrows ▸ hr))
  simp only [markAt, setMark, List.getD_eq_getElem?_getD, List.getElem?_modify]
  by_cases hrr : r = r'
  · subst hrr
    have hsome : sheet[r]? = some sheet[r] := List.getElem?_eq_getElem (hrows ▸ hr)
    by_cases hcc : c = c'
    · subst hcc
      simp [hsome, hlen, hc]
    · simp [hsome, hcc, Ne.symm hcc]
  · simp [hrr, Ne.symm hrr]

theorem markAt_replicate {R C r c : Nat} (hr : r < R) (hc : c < C) (m : Mark) :
    markAt (List.replicate R (List.replicate C m)) r c = m := by
  simp [markAt, List.getD_eq_getElem?_getD, hr, hc]

/-! ## A sheet without an UNSET cell -/

theorem ne_unset_of_firstUnsetInRow {row : List Mark} {c : Nat} (h : firstUnsetInRow c row = none) :
    ∀ m ∈ row, m ≠ .unset := by
  induction row generalizing c with
  | nil => exact nofun
  | cons m row ih =>
    cases m with
    | unset => cases h
    | codeword _ _ | fixed _ => exact List.forall_mem_cons.2 ⟨nofun, ih h⟩

theorem ne_unset_of_firstUnset {r : Nat} {sheet : List (List Mark)} (h : firstUnset r sheet = none) :
    ∀ row ∈ sheet, ∀ m ∈ row, m ≠ .unset := by
  induction sheet generalizing r with
  | nil => exact nofun
  | cons row sheet ih =>
    rw [firstUnset] at h
    cases hfirst : firstUnsetInRow 0 row with
    | some c => rw [hfirst] at h; cases h
    | none =>
      rw [hfirst] at h
      exact List.forall_mem_cons.2 ⟨ne_unset_of_firstUnsetInRow hfirst, ih h⟩

/-- A sheet in which the machine's search finds no UNSET cell has none. -/
theorem markAt_ne_unset {R C : Nat} {sheet : List (List Mark)} (hsheet : Shaped R C sheet)
    (h : firstUnset 0 sheet = none) {r c : Nat} (hr : r < R) (hc : c < C) : markAt sheet r c ≠ .unset := by
  obtain ⟨rfl, hcols⟩ := hsheet
  have hlen : c < (sheet[r]).length := (hcols _ (List.getElem_mem hr)).symm ▸ hc
  have hmark : markAt sheet r c = sheet[r][c] := by
    simp [markAt, List.getD_eq_getElem?_getD, hr, hlen]
  rw [hmark]
  exact ne_unset_of_firstUnset h _ (List.getElem_mem hr) _ (List.getElem_mem hlen)

/-! ## One module (R129) -/

/-- The machine's wrap, cell by cell, is the wrap in the words of R129. -/
theorem wrapCell_eq_wrapped (R C : Nat) (cell : Int × Int) : wrapCell R C cell = wrapped R C cell.1 cell.2 := by
  simp only [wrapCell, wrapped, Nat.cast_add, Int.natCast_mod, Nat.cast_ofNat]
  by_cases hr : cell.1 < 0 
  · simp only [if_pos hr]; split <;> rfl
  · simp only [if_neg hr]; split <;> rfl

/-- A module that is placed takes its wrapped cell, which lies in the matrix and was UNSET (R129). -/
theorem placeModule_eq_ok {R C pos bit : Nat} {sheet next : List (List Mark)} {cell : Int × Int}
    (h : placeModule R C pos bit sheet cell = .ok next) :
    ∃ r c : Nat, wrapped R C cell.1 cell.2 = ((r : Int), (c : Int)) ∧ r < R ∧ c < C ∧ markAt sheet r c = .unset ∧
      next = setMark sheet r c (.codeword pos bit) := by
  simp only [placeModule, wrapCell_eq_wrapped] at h
  generalize wrapped R C cell.1 cell.2 = cell' at h ⊢
  obtain ⟨w, x⟩ := cell'
  split at h
  · next hin =>
    obtain ⟨hw0, hw, hx0, hx⟩ := hin
    lift w to Nat using hw0
    lift x to Nat using hx0
    split at h
    · next hunset =>
      exact ⟨w, x, rfl, by simpa using hw, by simpa using hx, (isUnset_iff ..).1 hunset, (Except.ok.inj h).symm⟩
    · cases h
  · cases h

/-! ## The trail of a placement -/

/-- The sheet records the cells taken so far, in their order: cell number j holds bit j mod 8 + 1 of codeword j / 8 (R130),
and every other cell of the matrix is UNSET. -/
structure Trail (R C : Nat) (cells : List (Nat × Nat)) (sheet : List (List Mark)) : Prop where
  shaped : Shaped R C sheet
  inside : ∀ cell ∈ cells, cell.1 < R ∧ cell.2 < C
  marked : ∀ j r c, cells[j]? = some (r, c) → markAt sheet r c = .codeword (j / 8) (j % 8 + 1)
  unmarked : ∀ r c, r < R → c < C → (r, c) ∉ cells → markAt sheet r c = .unset

theorem trail_nil (R C : Nat) : Trail R C [] (List.replicate R (List.replicate C .unset)) :=
  ⟨shaped_replicate R C _, nofun, nofun, fun _ _ hr hc _ => markAt_replicate hr hc _⟩

theorem Trail.not_mem_of_unset {R C : Nat} {cells : List (Nat × Nat)} {sheet : List (List Mark)}
    (h : Trail R C cells sheet) {r c : Nat} (hunset : markAt sheet r c = .unset) : (r, c) ∉ cells := fun hmem => by
  obtain ⟨j, hj⟩ := List.mem_iff_getElem?.1 hmem
  exact absurd ((h.marked j r c hj).symm.trans hunset) nofun

theorem Trail.markAt_eq_codeword_iff {R C : Nat} {cells : List (Nat × Nat)} {sheet : List (List Mark)}
    (h : Trail R C cells sheet) {r c pos bit : Nat} (hr : r < R) (hc : c < C) :
    markAt sheet r c = .codeword pos bit ↔ ∃ j, cells[j]? = some (r, c) ∧ pos = j / 8 ∧ bit = j % 8 + 1 := by
  constructor
  · intro hmark
    by_cases hmem : (r, c) ∈ cells
    · obtain ⟨j, hj⟩ := List.mem_iff_getElem?.1 hmem
      obtain ⟨rfl, rfl⟩ := Mark.codeword.inj (hmark.symm.trans (h.marked j r c hj))
      exact ⟨j, hj, rfl, rfl⟩
    · exact absurd (hmark.symm.trans (h.unmarked r c hr hc hmem)) nofun
  · rintro ⟨j, hj, rfl, rfl⟩
    exact h.marked j r c hj

/-- No cell is taken twice (R146): it would hold two marks. -/
theorem Trail.nodup {R C : Nat} {cells : List (Nat × Nat)} {sheet : List (List Mark)}
    (h : Trail R C cells sheet) : cells.Nodup := by
  refine List.nodup_iff_getElem?_ne_getElem?.2 fun i j hij hj heq => ?_
  obtain ⟨⟨r, c⟩, hcell⟩ : ∃ cell, cells[j]? = some cell := ⟨_, List.getElem?_eq_getElem hj⟩
  obtain ⟨hpos, hbit⟩ := Mark.codeword.inj ((h.marked i r c (heq.trans hcell)).symm.trans (h.marked j r c hcell))
  omega

/-- The next bit taken at an UNSET cell. -/
theorem Trail.concat {R C : Nat} {cells : List (Nat × Nat)} {sheet : List (List Mark)}
    (h : Trail R C cells sheet) {r c : Nat} (hr : r < R) (hc : c < C) (hunset : markAt sheet r c = .unset) :
    Trail R C (cells ++ [(r, c)]) (setMark sheet r c (.codeword (cells.length / 8) (cells.length % 8 + 1))) := by
  have hnew := h.not_mem_of_unset hunset
  refine ⟨shaped_setMark h.shaped _ _ _, ?_, fun j r' c' hj => ?_, fun r' c' hr' hc' hmem => ?_⟩
  · intro cell hcell
    rcases List.mem_append.1 hcell with hcell | hcell
    · exact h.inside cell hcell
    · obtain rfl := List.mem_singleton.1 hcell
      exact ⟨hr, hc⟩
  · rw [markAt_setMark h.shaped hr hc]
    rcases Nat.lt_trichotomy j cells.length with hlt | rfl | hgt
    · rw [List.getElem?_append_left hlt] at hj
      rw [if_neg, h.marked j r' c' hj]
      rintro ⟨rfl, rfl⟩
      exact hnew (List.mem_iff_getElem?.2 ⟨j, hj⟩)
    · rw [List.getElem?_concat_length] at hj
      obtain ⟨rfl, rfl⟩ := Prod.mk.inj (Option.some.inj hj)
      exact if_pos ⟨rfl, rfl⟩
    · rw [List.getElem?_eq_none (by simpa using hgt)] at hj
      cases hj
  · simp only [List.mem_append, List.mem_singleton, Prod.mk.injEq, not_or] at hmem
    rw [markAt_setMark h.shaped hr hc, if_neg hmem.2, h.unmarked r' c' hr' hc' hmem.1]

/-- Distinct cells that cover the matrix are R · C in number. -/
theorem length_of_covers {R C : Nat} {cells : List (Nat × Nat)} (hnodup : cells.Nodup)
    (hinside : ∀ cell ∈ cells, cell.1 < R ∧ cell.2 < C) (hcovers : ∀ r c, r < R → c < C → (r, c) ∈ cells) :
    cells.length = R * C := by
  have hset : cells.toFinset = Finset.range R ×ˢ Finset.range C := by
    ext ⟨r, c⟩
    simp only [List.mem_toFinset, Finset.mem_product, Finset.mem_range]
    exact ⟨hinside (r, c), fun hcell => hcovers r c hcell.1 hcell.2⟩
  rw [← List.toFinset_card_of_nodup hnodup, hset, Finset.card_product, Finset.card_range, Finset.card_range]

end Sys2Proof.Proofs

end

section

/-! PROOF. The order in which the placement's cursor asks for patterns (R133, R134): their ranks rise with every move. -/

namespace Sys2Proof.Proofs

open Sys2Proof Sys2Proof.Machine Sys2Proof.Claims

/-! ## Rising moves -/

/-- The cells of the pattern that a move asks for. -/
def moveCells : Move → List (Int × Int)
  | .corner cells => cells
  | .anchor row col => utah row col

/-- The moves that ask for a pattern inside the matrix ask for patterns of R130 and R132 whose ranks rise from `lo` on. -/
inductive Rising (R C : Nat) : Nat → List Move → Prop
  | nil (lo : Nat) : Rising R C lo []
  | outside {lo : Nat} {row col : Int} {rest : List Move} (hout : ¬ (0 ≤ row ∧ row < R ∧ 0 ≤ col ∧ col < C))
      (hrest : Rising R C lo rest) : Rising R C lo (.anchor row col :: rest)
  | pattern {lo : Nat} {m : Move} {rest : List Move} (P : Pattern) (hcells : moveCells m = P.cells R C)
      (hallowed : P.allowed R C) (hlo : lo ≤ P.rank R) (hrest : Rising R C (P.rank R + 1) rest) :
      Rising R C lo (m :: rest)

/-- Where the loop may stand: on a diagonal of 4 modulo 8 in an even column at the top of a pass and in a sweep up, of 0
modulo 8 in an odd column in a sweep down (R133). -/
def OnTrack (C : Nat) (row col : Int) : Sweep → Prop
  | .top | .up => 4 ≤ row + col ∧ (row + col) % 8 = 4 ∧ 0 ≤ col ∧ col < C ∧ col % 2 = 0
  | .down => 8 ≤ row + col ∧ (row + col) % 8 = 0 ∧ 1 ≤ col ∧ col < C + 5 ∧ col % 2 = 1

/-- The rank of what the loop asks for next. -/
def cursorRank (row col : Int) : Sweep → Int
  | .top => 1024 * (row + col)
  | .up => 1024 * (row + col) + (1 + col)
  | .down => 1024 * (row + col) + (512 - col)

/-- An anchor in the matrix asks for the standard pattern there, whose rank is the cursor's; any other asks for nothing. -/
theorem rising_anchor {R C lo : Nat} {row col : Int} {rest : List Move} {sweep : Sweep} (hC : C ≤ 256)
    (hsweep : sweep ≠ .top) (hcol : OnTrack C row col sweep) (hlo : lo ≤ cursorRank row col sweep)
    (hrest : ∀ next : Nat, next ≤ cursorRank row col sweep + 1 → Rising R C next rest) :
    Rising R C lo (.anchor row col :: rest) := by
  by_cases hin : 0 ≤ row ∧ row < R ∧ 0 ≤ col ∧ col < C
  · obtain ⟨hr0, hr, hc0, hc⟩ := hin
    lift row to Nat using hr0
    lift col to Nat using hc0
    have hutah : (Pattern.utah row col).allowed R C ∧ ((Pattern.utah row col).rank R : Int) = cursorRank row col sweep := by
      cases sweep with
      | top => exact absurd rfl hsweep
      | up =>
        simp only [OnTrack, Pattern.allowed, Pattern.rank, cursorRank] at hcol ⊢
        rw [if_pos (by omega)]
        omega
      | down =>
        simp only [OnTrack, Pattern.allowed, Pattern.rank, cursorRank] at hcol ⊢
        rw [if_neg (by omega)]
        omega
    obtain ⟨hallowed, hrank⟩ := hutah
    exact .pattern (.utah row col) rfl hallowed (by omega) (hrest _ (by omega))
  · exact .outside hin (hrest lo (by omega))

/-! ## The cursor -/

/-- At most one corner pattern begins a pass, and it stands first on the pass's diagonal. -/
theorem cornerMoves_cases (R C : Nat) {row col : Int} (hd : 4 ≤ row + col) :
    cornerMoves R C row col = [] ∨ ∃ P : Pattern, cornerMoves R C row col = [.corner (P.cells R C)] ∧ P.allowed R C ∧
      (P.rank R : Int) = 1024 * (row + col) := by
  by_cases h1 : row = R ∧ col = 0
  · refine .inr ⟨.corner1, ?_, trivial, by simp only [Pattern.rank]; omega⟩
    rw [cornerMoves, if_pos h1, if_neg (by omega), if_neg (by omega), if_neg (by omega)]
    rfl
  by_cases h2 : row = R - 2 ∧ col = 0 ∧ (C : Int) % 4 ≠ 0
  · refine .inr ⟨.corner2, ?_, by simp only [Pattern.allowed]; omega, by simp only [Pattern.rank]; omega⟩
    rw [cornerMoves, if_neg h1, if_pos h2, if_neg (by omega), if_neg (by omega)]
    rfl
  by_cases h3 : row = R - 2 ∧ col = 0 ∧ (C : Int) % 8 = 4
  · refine .inr ⟨.corner3, ?_, by simp only [Pattern.allowed]; omega, by simp only [Pattern.rank]; omega⟩
    rw [cornerMoves, if_neg h1, if_neg h2, if_pos h3, if_neg (by omega)]
    rfl
  by_cases h4 : row = R + 4 ∧ col = 2 ∧ (C : Int) % 8 = 0
  · refine .inr ⟨.corner4, ?_, by simp only [Pattern.allowed]; omega, by simp only [Pattern.rank]; omega⟩
    rw [cornerMoves, if_neg h1, if_neg h2, if_neg h3, if_pos h4]
    rfl
  · exact .inl (by rw [cornerMoves, if_neg h1, if_neg h2, if_neg h3, if_neg h4]; rfl)

/-- The cursor's moves rise, however many of them are made: each goes on on its diagonal, or to the next sweep's. -/
theorem rising_placeMoves {R C : Nat} (hC1 : 1 ≤ C) (hC : C ≤ 256) (n : Nat) {sweep : Sweep} {row col : Int}
    (htrack : OnTrack C row col sweep) {lo : Nat} (hlo : lo ≤ cursorRank row col sweep) :
    Rising R C lo (placeMoves R C n sweep row col) := by
  induction n generalizing sweep row col lo with
  | zero => exact .nil lo
  | succ n ih =>
    cases sweep with
    | top =>
      have hup (next : Nat) (hnext : next ≤ cursorRank row col .top + 1) :
          Rising R C next (placeMoves R C n .up row col) :=
        ih (sweep := .up) htrack (by simp only [OnTrack, cursorRank] at htrack hnext ⊢; omega)
      rw [placeMoves]
      rcases cornerMoves_cases R C htrack.1 with hnone | ⟨P, hcorner, hallowed, hrank⟩
      · rw [hnone]
        exact hup lo (by omega)
      · rw [hcorner]
        simp only [cursorRank] at hlo hup
        exact .pattern P rfl hallowed (by omega) (hup _ (by omega))
    | up =>
      refine rising_anchor (sweep := .up) hC nofun htrack hlo fun next hnext => ?_
      simp only [OnTrack, cursorRank] at htrack hnext
      split <;> exact ih (by simp only [OnTrack]; omega) (by simp only [cursorRank]; omega)
    | down =>
      refine rising_anchor (sweep := .down) hC nofun htrack hlo fun next hnext => ?_
      simp only [OnTrack, cursorRank] at htrack hnext
      split
      · exact ih (by simp only [OnTrack]; omega) (by simp only [cursorRank]; omega)
      · split
        · exact ih (by simp only [OnTrack]; omega) (by simp only [cursorRank]; omega)
        · exact .nil next

end Sys2Proof.Proofs

end

section

/-! PROOF. A placement that ends without an error is a bijection between the bits of the codewords placed, with the corner
fill, and the cells of the matrix (R129 to R135, R146). -/

namespace Sys2Proof.Proofs

open Sys2Proof Sys2Proof.Machine Sys2Proof.Claims

/-! ## The bits of one pattern (R130) -/

/-- A cell of the matrix as a coordinate pair. -/
def toCoords (cell : Nat × Nat) : Int × Int := (cell.1, cell.2)

/-- The cells in the matrix of a pattern's cells (R129). -/
def wrappedCells (R C : Nat) (cells : List (Int × Int)) : List (Int × Int) :=
  cells.map fun cell => wrapped R C cell.1 cell.2

theorem length_patternCells (R C : Int) (P : Pattern) : (P.cells R C).length = 8 := by cases P <;> rfl

/-- The bits placed extend the trail by the wrapped cells asked for, in their order. -/
theorem Trail.of_placeBits {R C pos bit : Nat} (hbit : 1 ≤ bit) {wanted : List (Int × Int)}
    (hwanted : wanted.length + bit ≤ 9) {cells : List (Nat × Nat)} {sheet next : List (List Mark)}
    (h : Trail R C cells sheet) (hlen : cells.length = 8 * pos + (bit - 1))
    (hok : placeBits R C pos bit wanted sheet = .ok next) :
    ∃ taken : List (Nat × Nat), Trail R C (cells ++ taken) next ∧ taken.map toCoords = wrappedCells R C wanted := by
  induction wanted generalizing bit cells sheet with
  | nil =>
    obtain rfl := Except.ok.inj hok
    exact ⟨[], by simpa using h, rfl⟩
  | cons cell wanted ih =>
    obtain ⟨mid, hmodule, hrest⟩ := (work_bind_eq_ok ..).1 hok
    obtain ⟨r, c, hwrap, hr, hc, hunset, rfl⟩ := placeModule_eq_ok hmodule
    rw [List.length_cons] at hwanted
    have hmid := h.concat hr hc hunset
    rw [show cells.length / 8 = pos by omega, show cells.length % 8 + 1 = bit by omega] at hmid
    obtain ⟨taken, htrail, htaken⟩ := ih (bit := bit + 1) (by omega) (by omega) hmid (by simp; omega) hrest
    refine ⟨(r, c) :: taken, by simpa using htrail, ?_⟩
    rw [List.map_cons, htaken]
    simp only [toCoords, wrappedCells, List.map_cons, hwrap]

theorem placePattern_eq_ok {N R C : Nat} {cells : List (Int × Int)} {p q : Placing} :
    placePattern N R C cells p = .ok q ↔
      p.pos < N ∧ ∃ sheet, placeBits R C p.pos 1 cells p.sheet = .ok sheet ∧ ⟨sheet, p.pos + 1⟩ = q := by
  simp only [placePattern, work_bind_eq_ok, require_eq_ok, decide_eq_true_eq, Except.ok.injEq, exists_const]

/-- Whether a move places a pattern depends on the sheet alone, not on how many codewords there are (R134). -/
theorem placeMove_cases (m : Move) (p : Placing) (R C : Nat) :
    (∀ N, placeMove N R C p m = .ok p) ∨ ∀ N, placeMove N R C p m = placePattern N R C (moveCells m) p := by
  cases m with
  | corner cells => exact .inr fun N => rfl
  | anchor row col =>
    by_cases h : 0 ≤ row ∧ row < R ∧ 0 ≤ col ∧ col < C ∧ isUnset p.sheet row.toNat col.toNat = true
    · exact .inr fun N => if_pos h
    · exact .inl fun N => if_neg h

/-! ## The patterns placed -/

/-- The patterns placed so far, one for each codeword: they are of the kinds of R130 and R132, their ranks rise and are below
`lo`, and their wrapped cells are the trail. -/
structure PlacedPatterns (R C lo : Nat) (pats : List Pattern) (cells : List (Nat × Nat)) (p : Placing) : Prop where
  count : pats.length = p.pos
  trail : Trail R C cells p.sheet
  cells_eq : cells.map toCoords = pats.flatMap fun P => wrappedCells R C (P.cells R C)
  allowed : ∀ P ∈ pats, P.allowed R C
  rising : pats.Pairwise fun P Q => P.rank R < Q.rank R
  below : ∀ P ∈ pats, P.rank R < lo

theorem PlacedPatterns.length_cells {R C lo : Nat} {pats : List Pattern} {cells : List (Nat × Nat)} {p : Placing}
    (h : PlacedPatterns R C lo pats cells p) : cells.length = 8 * p.pos := by
  have hlen := congrArg List.length h.cells_eq
  simp only [List.length_map, List.length_flatMap, wrappedCells, length_patternCells, List.map_const', List.sum_replicate,
    smul_eq_mul] at hlen
  rw [hlen, h.count, Nat.mul_comm]

/-- The next pattern placed. -/
theorem PlacedPatterns.concat {R C lo : Nat} {pats : List Pattern} {cells : List (Nat × Nat)} {p : Placing}
    (h : PlacedPatterns R C lo pats cells p) {P : Pattern} (hallowed : P.allowed R C) (hlo : lo ≤ P.rank R)
    {sheet : List (List Mark)} (hbits : placeBits R C p.pos 1 (P.cells R C) p.sheet = .ok sheet) :
    ∃ taken, PlacedPatterns R C (P.rank R + 1) (pats ++ [P]) (cells ++ taken) ⟨sheet, p.pos + 1⟩ := by
  have hbelow (Q : Pattern) (hQ : Q ∈ pats) : Q.rank R < P.rank R := (h.below Q hQ).trans_le hlo
  obtain ⟨taken, htrail, htaken⟩ :=
    h.trail.of_placeBits (pos := p.pos) le_rfl (by rw [length_patternCells]) h.length_cells hbits
  refine ⟨taken, ?_, htrail, ?_, ?_, ?_, ?_⟩
  · rw [List.length_append, h.count, List.length_singleton]
  · rw [List.map_append, h.cells_eq, htaken, List.flatMap_append, List.flatMap_singleton]
  · exact List.forall_mem_append.2 ⟨h.allowed, List.forall_mem_singleton.2 hallowed⟩
  · exact List.pairwise_append.2 ⟨h.rising, List.pairwise_singleton .., fun Q hQ =>
      List.forall_mem_singleton.2 (hbelow Q hQ)⟩
  · exact List.forall_mem_append.2 ⟨fun Q hQ => (hbelow Q hQ).trans (Nat.lt_succ_self _),
      List.forall_mem_singleton.2 (Nat.lt_succ_self _)⟩

/-- The placement goes on along rising moves: each one places no pattern, or the next one in the cursor's order. -/
theorem PlacedPatterns.of_placeAll {N R C lo : Nat} {moves : List Move} (hmoves : Rising R C lo moves) {pats : List Pattern}
    {cells : List (Nat × Nat)} {p q : Placing} (h : PlacedPatterns R C lo pats cells p)
    (hok : placeAll N R C moves p = .ok q) : ∃ hi pats' cells', PlacedPatterns R C hi pats' cells' q := by
  induction hmoves generalizing pats cells p with
  | nil lo =>
    obtain rfl := Except.ok.inj hok
    exact ⟨lo, pats, cells, h⟩
  | @outside lo row col rest hout _ ih =>
    obtain ⟨mid, hmove, hrest⟩ := (work_bind_eq_ok ..).1 hok
    have hskip : placeMove N R C p (.anchor row col) = .ok p :=
      if_neg fun ⟨hr0, hr, hc0, hc, _⟩ => hout ⟨hr0, hr, hc0, hc⟩
    obtain rfl := Except.ok.inj (hskip.symm.trans hmove)
    exact ih h hrest
  | @pattern lo m rest P hcells hallowed hlo _ ih =>
    obtain ⟨mid, hmove, hrest⟩ := (work_bind_eq_ok ..).1 hok
    rcases placeMove_cases m p R C with hskip | hplace
    · obtain rfl := Except.ok.inj ((hskip N).symm.trans hmove)
      exact ih { h with below := fun Q hQ => (h.below Q hQ).trans (Nat.lt_succ_of_le hlo) } hrest
    · rw [hplace, hcells] at hmove
      obtain ⟨-, sheet, hbits, rfl⟩ := placePattern_eq_ok.1 hmove
      obtain ⟨taken, hnext⟩ := h.concat hallowed hlo hbits
      exact ih hnext hrest

/-! ## The corner fill (R135) -/

/-- The place of a cell of the corner fill. -/
def fillPlace (cell : Nat × Nat × Bool) : Nat × Nat := (cell.1, cell.2.1)

/-- The extra cells, UNSET before and each named once, hold their fixed values, and every other cell what it held. -/
structure Filled (extra : List (Nat × Nat × Bool)) (sheet next : List (List Mark)) : Prop where
  nodup : (extra.map fillPlace).Nodup
  unset : ∀ cell ∈ extra, markAt sheet cell.1 cell.2.1 = .unset
  fixed : ∀ cell ∈ extra, markAt next cell.1 cell.2.1 = .fixed cell.2.2
  others : ∀ r c, (r, c) ∉ extra.map fillPlace → markAt next r c = markAt sheet r c

theorem filled_nil (sheet : List (List Mark)) : Filled [] sheet sheet := ⟨List.nodup_nil, nofun, nofun, fun _ _ _ => rfl⟩

theorem filled_of_fillCells {R C pos : Nat} {extra : List (Nat × Nat × Bool)}
    (hinside : ∀ cell ∈ extra, cell.1 < R ∧ cell.2.1 < C) {sheet next : List (List Mark)} (hsheet : Shaped R C sheet)
    (hok : fillCells pos extra sheet = .ok next) : Shaped R C next ∧ Filled extra sheet next := by
  induction extra generalizing sheet with
  | nil =>
    obtain rfl := Except.ok.inj hok
    exact ⟨hsheet, filled_nil _⟩
  | cons cell extra ih =>
    obtain ⟨r, c, dark⟩ := cell
    obtain ⟨⟨hr, hc⟩, hinside⟩ := List.forall_mem_cons.1 hinside
    obtain ⟨_, hunset, hrest⟩ := (work_bind_eq_ok ..).1 hok
    rw [require_eq_ok, isUnset_iff] at hunset
    obtain ⟨hshaped, hfilled⟩ := ih hinside (shaped_setMark hsheet r c _) hrest
    have hmark := markAt_setMark hsheet hr hc (.fixed dark)
    have hnew : (r, c) ∉ extra.map fillPlace := fun hmem => by
      obtain ⟨cell, hcell, heq⟩ := List.mem_map.1 hmem
      obtain ⟨rfl, rfl⟩ := Prod.mk.inj heq
      exact absurd ((hfilled.unset cell hcell).symm.trans ((hmark _ _).trans (if_pos ⟨rfl, rfl⟩))) nofun
    refine ⟨hshaped, List.nodup_cons.2 ⟨hnew, hfilled.nodup⟩, List.forall_mem_cons.2 ⟨hunset, fun cell hcell => ?_⟩,
      List.forall_mem_cons.2 ⟨?_, hfilled.fixed⟩, fun r' c' hmem => ?_⟩
    · rw [← hfilled.unset cell hcell, hmark, if_neg]
      rintro ⟨rfl, rfl⟩
      exact hnew (List.mem_map.2 ⟨cell, hcell, rfl⟩)
    · rw [hfilled.others r c hnew, hmark, if_pos ⟨rfl, rfl⟩]
    · obtain ⟨hne, hmem⟩ := not_or.1 (mt List.mem_cons.2 hmem)
      rw [hfilled.others r' c' hmem, hmark, if_neg]
      rintro ⟨rfl, rfl⟩
      exact hne rfl

/-- The corner fill neither makes nor loses a codeword's mark. -/
theorem Filled.codeword_iff {extra : List (Nat × Nat × Bool)} {sheet next : List (List Mark)} (h : Filled extra sheet next)
    (r c pos bit : Nat) : markAt next r c = .codeword pos bit ↔ markAt sheet r c = .codeword pos bit := by
  by_cases hmem : (r, c) ∈ extra.map fillPlace
  · obtain ⟨cell, hcell, heq⟩ := List.mem_map.1 hmem
    obtain ⟨rfl, rfl⟩ := Prod.mk.inj heq
    rw [h.unset cell hcell, h.fixed cell hcell]
    exact ⟨nofun, nofun⟩
  · rw [h.others r c hmem]

/-- The cells of the corner fill with their values (R135). -/
def cornerBlock (R C : Nat) : List (Nat × Nat × Bool) :=
  [(R - 1, C - 1, true), (R - 2, C - 2, true), (R - 1, C - 2, false), (R - 2, C - 1, false)]

/-- The cells that the corner fill takes, by its result (R135). -/
def FillOf (R C fill : Nat) (extra : List (Nat × Nat × Bool)) : Prop :=
  (fill = 0 ∧ extra = []) ∨ (fill = 1 ∧ 2 ≤ R ∧ 2 ≤ C ∧ extra = cornerBlock R C)

theorem FillOf.inside {R C fill : Nat} {extra : List (Nat × Nat × Bool)} (h : FillOf R C fill extra) :
    ∀ cell ∈ extra, cell.1 < R ∧ cell.2.1 < C := by
  rcases h with ⟨-, rfl⟩ | ⟨-, hR, hC, rfl⟩
  · exact nofun
  · simp only [cornerBlock, List.forall_mem_cons, List.not_mem_nil, false_implies, implies_true, and_true]
    omega

theorem FillOf.length {R C fill : Nat} {extra : List (Nat × Nat × Bool)} (h : FillOf R C fill extra) :
    extra.length = 4 * fill := by
  rcases h with ⟨rfl, rfl⟩ | ⟨rfl, -, -, rfl⟩ <;> rfl

/-- The corner fill takes no cell or the corner block (R135). -/
theorem cornerFill_eq_ok {R C fill : Nat} {p : Placing} {sheet : List (List Mark)} (hp : Shaped R C p.sheet)
    (hok : cornerFill R C p = .ok (sheet, fill)) :
    Shaped R C sheet ∧ ∃ extra, FillOf R C fill extra ∧ Filled extra p.sheet sheet := by
  unfold cornerFill at hok
  split at hok
  · obtain ⟨_, hsize, hok⟩ := (work_bind_eq_ok ..).1 hok
    obtain ⟨next, hfill, hok⟩ := (work_bind_eq_ok ..).1 hok
    obtain ⟨rfl, rfl⟩ := Prod.mk.inj (Except.ok.inj hok)
    rw [require_eq_ok, decide_eq_true_eq] at hsize
    have hextra : FillOf R C 1 (cornerBlock R C) := .inr ⟨rfl, hsize.1, hsize.2, rfl⟩
    obtain ⟨hshaped, hfilled⟩ := filled_of_fillCells hextra.inside hp hfill
    exact ⟨hshaped, _, hextra, hfilled⟩
  · obtain ⟨rfl, rfl⟩ := Prod.mk.inj (Except.ok.inj hok)
    exact ⟨hp, [], .inl ⟨rfl, rfl⟩, filled_nil _⟩

/-! ## The whole placement -/

/-- A placement without an error: its moves, the corner fill, and no UNSET cell left (R133). -/
theorem placement_eq_ok {N R C : Nat} {p : Placed} :
    placement N R C = .ok p ↔ ∃ q, placeAll N R C (placeMoves R C placeBound .top 4 0)
        { sheet := List.replicate R (List.replicate C .unset), pos := 0 } = .ok q ∧
      cornerFill R C q = .ok (p.sheet, p.fill) ∧ firstUnset 0 p.sheet = none ∧ p.pos = q.pos := by
  simp only [placement, work_bind_eq_ok]
  refine exists_congr fun q => and_congr_right fun _ => ?_
  constructor
  · rintro ⟨⟨sheet, fill⟩, hfill, hend⟩
    split at hend
    · cases hend
    · next hfull =>
      obtain rfl := Except.ok.inj hend
      exact ⟨hfill, hfull, rfl⟩
  · rintro ⟨hfill, hfull, hpos⟩
    refine ⟨_, hfill, ?_⟩
    rw [hfull]
    cases p
    cases hpos
    rfl

/-- What a placement that ended without an error leaves: the patterns placed and their trail on `sheet`, then the corner
fill's `extra` cells, and no cell UNSET. -/
structure FullPlacement (R C : Nat) (p : Placed) (pats : List Pattern) (cells : List (Nat × Nat))
    (extra : List (Nat × Nat × Bool)) (sheet : List (List Mark)) : Prop where
  patterns : ∃ hi, PlacedPatterns R C hi pats cells ⟨sheet, p.pos⟩
  fillOf : FillOf R C p.fill extra
  filled : Filled extra sheet p.sheet
  full : ∀ r c, r < R → c < C → markAt p.sheet r c ≠ .unset

theorem fullPlacement_of_ok {N R C : Nat} (hC1 : 1 ≤ C) (hC : C ≤ 256) {p : Placed} (hok : placement N R C = .ok p) :
    ∃ pats cells extra sheet, FullPlacement R C p pats cells extra sheet := by
  obtain ⟨q, hall, hfill, hfull, hpos⟩ := placement_eq_ok.1 hok
  have hempty : PlacedPatterns R C 0 [] [] ⟨List.replicate R (List.replicate C .unset), 0⟩ :=
    ⟨rfl, trail_nil R C, rfl, nofun, List.Pairwise.nil, nofun⟩
  have hmoves : Rising R C 0 (placeMoves R C placeBound .top 4 0) :=
    rising_placeMoves hC1 hC placeBound (by simp only [OnTrack]; omega) (by simp [cursorRank])
  obtain ⟨hi, pats, cells, hpats⟩ := hempty.of_placeAll hmoves hall
  obtain ⟨hshaped, extra, hextra, hfilled⟩ := cornerFill_eq_ok hpats.trail.shaped hfill
  exact ⟨pats, cells, extra, q.sheet, ⟨hi, hpos ▸ hpats⟩, hextra, hfilled, fun r c => markAt_ne_unset hshaped hfull⟩

section

variable {R C : Nat} {p : Placed} {pats : List Pattern} {cells : List (Nat × Nat)} {extra : List (Nat × Nat × Bool)}
  {sheet : List (List Mark)}

/-- A codeword's bit lies where the trail put it. -/
theorem FullPlacement.codeword_iff (h : FullPlacement R C p pats cells extra sheet) {r c pos bit : Nat} (hr : r < R)
    (hc : c < C) :
    markAt p.sheet r c = .codeword pos bit ↔ ∃ j, cells[j]? = some (r, c) ∧ pos = j / 8 ∧ bit = j % 8 + 1 := by
  obtain ⟨hi, hpats⟩ := h.patterns
  rw [h.filled.codeword_iff, hpats.trail.markAt_eq_codeword_iff hr hc]

theorem FullPlacement.mem (h : FullPlacement R C p pats cells extra sheet) {r c : Nat} (hr : r < R) (hc : c < C) :
    (r, c) ∈ cells ++ extra.map fillPlace := by
  obtain ⟨hi, hpats⟩ := h.patterns
  by_contra hmem
  rw [List.mem_append, not_or] at hmem
  refine h.full r c hr hc ?_
  rw [h.filled.others r c hmem.2, hpats.trail.unmarked r c hr hc hmem.1]

/-- The trail and the corner fill cover the matrix, each cell once (R146). -/
theorem FullPlacement.count (h : FullPlacement R C p pats cells extra sheet) : p.pos * 8 + 4 * p.fill = R * C := by
  obtain ⟨hi, hpats⟩ := h.patterns
  have hnodup : (cells ++ extra.map fillPlace).Nodup :=
    List.nodup_append.2 ⟨hpats.trail.nodup, h.filled.nodup, fun cell hcell other hother heq => by
      obtain ⟨x, hx, rfl⟩ := List.mem_map.1 hother
      subst heq
      exact hpats.trail.not_mem_of_unset (h.filled.unset x hx) hcell⟩
  have hinside : ∀ cell ∈ cells ++ extra.map fillPlace, cell.1 < R ∧ cell.2 < C :=
    List.forall_mem_append.2 ⟨hpats.trail.inside, List.forall_mem_map.2 h.fillOf.inside⟩
  have hlen := length_of_covers hnodup hinside fun r c => h.mem
  rw [List.length_append, List.length_map, hpats.length_cells, h.fillOf.length] at hlen
  rw [← hlen, Nat.mul_comm]

/-- Bit `bit + 1` of a codeword lies at the wrapped cell that its pattern gives it. -/
theorem FullPlacement.bitAt (h : FullPlacement R C p pats cells extra sheet) {pos bit : Nat} {cell : Int × Int}
    (hpos : pos < p.pos) (hcell : ((pats.getD pos .corner1).cells R C)[bit]? = some cell) :
    BitAt p.sheet R C pos (bit + 1) cell := by
  obtain ⟨hi, hpats⟩ := h.patterns
  have hbit : bit < 8 := length_patternCells R C (pats.getD pos .corner1) ▸ (List.getElem?_eq_some_iff.1 hcell).1
  have hplaced : (cells[bit + pos * 8]?).map toCoords = some (wrapped R C cell.1 cell.2) := by
    rw [← List.getElem?_map, hpats.cells_eq, ← map_getD_range hpats.count .corner1, List.flatMap_map,
      getElem?_flatMap_range (fun j => by simp [wrappedCells, length_patternCells]) hbit hpos, wrappedCells,
      List.getElem?_map, hcell, Option.map_some]
  obtain ⟨⟨r, c⟩, hrc, hwrap⟩ := Option.map_eq_some_iff.1 hplaced
  obtain ⟨hr, hc⟩ := hpats.trail.inside _ (List.mem_of_getElem? hrc)
  exact ⟨r, c, hwrap.symm, hr, hc, (h.codeword_iff hr hc).2 ⟨_, hrc, by omega, by omega⟩⟩


theorem FullPlacement.codeword_bounds (h : FullPlacement R C p pats cells extra sheet) {r c pos bit : Nat} (hr : r < R)
    (hc : c < C) (hmark : markAt p.sheet r c = .codeword pos bit) : pos < p.pos ∧ 1 ≤ bit ∧ bit ≤ 8 := by
  obtain ⟨hi, hpats⟩ := h.patterns
  obtain ⟨j, hj, rfl, rfl⟩ := (h.codeword_iff hr hc).1 hmark
  have hlen : cells.length = 8 * p.pos := hpats.length_cells
  obtain ⟨hj, -⟩ := List.getElem?_eq_some_iff.1 hj
  omega

/-- Every bit of every codeword placed has its own cell. -/
theorem FullPlacement.exists_codeword (h : FullPlacement R C p pats cells extra sheet) {pos bit : Nat} (hpos : pos < p.pos)
    (h1 : 1 ≤ bit) (h8 : bit ≤ 8) :
    ∃ r c, r < R ∧ c < C ∧ markAt p.sheet r c = .codeword pos bit ∧
      ∀ r' c', r' < R → c' < C → markAt p.sheet r' c' = .codeword pos bit → r' = r ∧ c' = c := by
  obtain ⟨hi, hpats⟩ := h.patterns
  have hlen : cells.length = 8 * p.pos := hpats.length_cells
  obtain ⟨⟨r, c⟩, hrc⟩ : ∃ cell, cells[8 * pos + (bit - 1)]? = some cell :=
    ⟨_, List.getElem?_eq_getElem (by omega)⟩
  obtain ⟨hr, hc⟩ := hpats.trail.inside _ (List.mem_of_getElem? hrc)
  refine ⟨r, c, hr, hc, (h.codeword_iff hr hc).2 ⟨_, hrc, by omega, by omega⟩, fun r' c' hr' hc' hmark => ?_⟩
  obtain ⟨j, hj, hjpos, hjbit⟩ := (h.codeword_iff hr' hc').1 hmark
  obtain rfl : j = 8 * pos + (bit - 1) := by omega
  exact Prod.mk.inj (Option.some.inj (hj.symm.trans hrc))

theorem FullPlacement.ne_fixed (h : FullPlacement R C p pats cells extra sheet) (hfill : p.fill = 0) {r c : Nat} (hr : r < R)
    (hc : c < C) (dark : Bool) : markAt p.sheet r c ≠ .fixed dark := by
  obtain rfl : extra = [] := List.length_eq_zero_iff.1 (by rw [h.fillOf.length, hfill])
  obtain ⟨j, hj⟩ := List.mem_iff_getElem?.1 ((List.append_nil cells) ▸ h.mem hr hc)
  rw [(h.codeword_iff hr hc).2 ⟨j, hj, rfl, rfl⟩]
  exact nofun

theorem FullPlacement.cornerFilled (h : FullPlacement R C p pats cells extra sheet) (hfill : p.fill = 1) :
    CornerFilled p.sheet R C := by
  rcases h.fillOf with ⟨hnone, -⟩ | ⟨-, hR, hC, rfl⟩
  · omega
  · have hfixed := h.filled.fixed
    simp only [cornerBlock, List.forall_mem_cons, List.not_mem_nil, false_implies, implies_true, and_true] at hfixed
    exact ⟨hR, hC, hfixed⟩

theorem FullPlacement.rank_lt (h : FullPlacement R C p pats cells extra sheet) {pos pos' : Nat} (hlt : pos < pos')
    (hpos' : pos' < p.pos) : (pats.getD pos .corner1).rank R < (pats.getD pos' .corner1).rank R := by
  obtain ⟨hi, hpats⟩ := h.patterns
  have hlen : pats.length = p.pos := hpats.count
  have hrank := List.pairwise_iff_getElem.1 hpats.rising pos pos' (by omega) (by omega) hlt
  simpa [List.getD_eq_getElem?_getD, show pos < pats.length by omega, show pos' < pats.length by omega] using hrank

theorem FullPlacement.allowed (h : FullPlacement R C p pats cells extra sheet) {pos : Nat} (hpos : pos < p.pos) :
    (pats.getD pos .corner1).allowed R C := by
  obtain ⟨hi, hpats⟩ := h.patterns
  have hin : pos < pats.length := hpats.count.symm ▸ hpos
  rw [List.getD_eq_getElem _ _ hin]
  exact hpats.allowed _ (List.getElem_mem hin)

end

theorem placement_pos_le {N R C : Nat} (hR : R ≤ 256) (hC : C ≤ 256) {p : Placed} (hok : placement N R C = .ok p) :
    p.pos ≤ N := by
  obtain ⟨q, hall, -, -, hpos⟩ := placement_eq_ok.1 hok
  have hplaces := places_placeAll (N := N) hR hC (placeMoves R C placeBound .top 4 0)
    (p := ⟨List.replicate R (List.replicate C .unset), 0⟩) ⟨shaped_replicate R C _, Nat.zero_le N⟩
  rw [hall] at hplaces
  exact hpos ▸ hplaces.2

/-- Settles O36: the patterns placed leave a trail of distinct cells, which with the corner fill is the whole matrix. -/
theorem placementIsBijection : Obligations.PlacementIsBijection := by
  intro N R C p hR1 hR hC1 hC hok
  obtain ⟨pats, cells, extra, sheet, h⟩ := fullPlacement_of_ok hC1 hC hok
  exact ⟨placement_pos_le hR hC hok, h.full, fun r c pos bit => h.codeword_bounds, fun pos bit => h.exists_codeword,
    fun hfill r c => h.ne_fixed hfill, h.count, h.fillOf.imp (·.1) (·.1), h.cornerFilled,
    fun pos => pats.getD pos .corner1, fun pos hpos => ⟨h.allowed hpos, fun bit cell => h.bitAt hpos⟩,
    fun pos pos' => h.rank_lt⟩

end Sys2Proof.Proofs

end

section

/-! PROOF. The placement by the number of codewords: it looks at N only where a pattern needs a codeword (R130, R134), so
what it does with enough of them and with too few follows from one run (R136, R137). -/

namespace Sys2Proof.Proofs

open Sys2Proof Sys2Proof.Machine Sys2Proof.Claims

/-! ## The number of codewords (R134) -/

/-- A move that succeeds places no pattern with any number of codewords, or places its pattern with any number that leaves one
for it and ends with CW_UNDERRUN with any other (R130). -/
theorem placeMove_eq_ok {N R C : Nat} {m : Move} {p q : Placing} (hok : placeMove N R C p m = .ok q) :
    (q = p ∧ ∀ M, placeMove M R C p m = .ok p) ∨
      (q.pos = p.pos + 1 ∧ (∀ M, p.pos < M → placeMove M R C p m = .ok q) ∧
        ∀ M, M ≤ p.pos → placeMove M R C p m = .error (.error .cwUnderrun p.pos M)) := by
  rcases placeMove_cases m p R C with hskip | hplace
  · exact .inl ⟨Except.ok.inj (hok.symm.trans (hskip N)), hskip⟩
  · rw [hplace] at hok
    obtain ⟨-, sheet, hbits, rfl⟩ := placePattern_eq_ok.1 hok
    refine .inr ⟨rfl, fun M hM => ?_, fun M hM => ?_⟩
    · exact (hplace M).trans (placePattern_eq_ok.2 ⟨hM, sheet, hbits, rfl⟩)
    · rw [hplace, placePattern, decide_eq_false (Nat.not_lt.2 hM)]
      rfl

theorem pos_le_of_placeAll {N R C : Nat} {moves : List Move} {p q : Placing} (hok : placeAll N R C moves p = .ok q) :
    p.pos ≤ q.pos := by
  induction moves generalizing p with
  | nil => exact (congrArg Placing.pos (Except.ok.inj hok)).le
  | cons m moves ih =>
    obtain ⟨mid, hmove, hrest⟩ := (work_bind_eq_ok ..).1 hok
    have := ih hrest
    rcases placeMove_eq_ok hmove with ⟨rfl, -⟩ | ⟨hpos, -⟩ <;> omega

/-- The moves go the same way with any number of codewords that suffices. -/
theorem placeAll_of_enough {N M R C : Nat} {moves : List Move} {p q : Placing} (hok : placeAll N R C moves p = .ok q)
    (hM : q.pos ≤ M) : placeAll M R C moves p = .ok q := by
  induction moves generalizing p with
  | nil => exact hok
  | cons m moves ih =>
    obtain ⟨mid, hmove, hrest⟩ := (work_bind_eq_ok ..).1 hok
    have := pos_le_of_placeAll hrest
    have hsame : placeMove M R C p m = .ok mid := by
      rcases placeMove_eq_ok hmove with ⟨rfl, hskip⟩ | ⟨hpos, hplace, -⟩
      · exact hskip M
      · exact hplace M (by omega)
    rw [placeAll, hsame, work_ok_bind, ih hrest]

/-- With too few codewords the moves end at the first pattern that has none. -/
theorem placeAll_of_tooFew {N M R C : Nat} {moves : List Move} {p q : Placing} (hok : placeAll N R C moves p = .ok q)
    (hp : p.pos ≤ M) (hM : M < q.pos) : placeAll M R C moves p = .error (.error .cwUnderrun M M) := by
  induction moves generalizing p with
  | nil =>
    obtain rfl := Except.ok.inj hok
    omega
  | cons m moves ih =>
    obtain ⟨mid, hmove, hrest⟩ := (work_bind_eq_ok ..).1 hok
    rw [placeAll]
    rcases placeMove_eq_ok hmove with ⟨rfl, hskip⟩ | ⟨hpos, hplace, hunder⟩
    · rw [hskip, work_ok_bind, ih hrest hp]
    · rcases Nat.lt_or_eq_of_le hp with hlt | rfl
      · rw [hplace M hlt, work_ok_bind, ih hrest (by omega)]
      · rw [hunder _ le_rfl, work_error_bind]

/-- The placement is the same with any number of codewords that suffices (R134). -/
theorem placement_of_enough {N M R C : Nat} {p : Placed} (hok : placement N R C = .ok p) (hM : p.pos ≤ M) :
    placement M R C = .ok p := by
  obtain ⟨q, hall, hfill, hfull, hpos⟩ := placement_eq_ok.1 hok
  exact placement_eq_ok.2 ⟨q, placeAll_of_enough hall (hpos ▸ hM), hfill, hfull, hpos⟩

/-- With fewer codewords than it takes the placement ends with CW_UNDERRUN. -/
theorem placement_of_tooFew {N M R C : Nat} {p : Placed} (hok : placement N R C = .ok p) (hM : M < p.pos) :
    placement M R C = .error (.error .cwUnderrun M M) := by
  obtain ⟨q, hall, -, -, hpos⟩ := placement_eq_ok.1 hok
  rw [placement, placeAll_of_tooFew hall (Nat.zero_le M) (hpos ▸ hM), work_error_bind]

/-- What a placement without an error delivers follows from the size of the matrix, as it is a bijection. -/
theorem placement_values {N R C : Nat} (hC1 : 1 ≤ C) (hC : C ≤ 256) {p : Placed} (hok : placement N R C = .ok p) :
    p.pos = R * C / 8 ∧ p.fill = R * C % 8 / 4 := by
  obtain ⟨pats, cells, extra, sheet, h⟩ := fullPlacement_of_ok hC1 hC hok
  have hcount := h.count
  rcases h.fillOf with ⟨hfill, -⟩ | ⟨hfill, -⟩ <;> omega

/-- A size that completes with some number of codewords completes with R · C / 8 or more of them. -/
theorem exists_placement {M N R C : Nat} (h : (placement M R C).isOk = true) (hC1 : 1 ≤ C) (hC : C ≤ 256)
    (hN : R * C / 8 ≤ N) :
    ∃ p, placement N R C = .ok p ∧ p.pos = R * C / 8 ∧ p.fill = R * C % 8 / 4 := by
  cases hok : placement M R C with
  | ok p =>
    obtain ⟨hpos, hfill⟩ := placement_values hC1 hC hok
    exact ⟨p, placement_of_enough hok (hpos ▸ hN), hpos, hfill⟩
  | error e => rw [hok] at h; cases h

/-! ## Sizes outside the ECC200 set (R137) -/

/-- The sizes outside the ECC200 set of which R137 says that they complete. -/
def completingOtherSizes : List (Nat × Nat) := [(2, 2), (4, 4), (6, 6), (8, 10), (8, 16), (16, 8)]

theorem placement_isOk_otherSizes : ∀ size ∈ completingOtherSizes,
    (1 ≤ size.2 ∧ size.2 ≤ 256 ∧ size.1 * size.2 / 8 ≤ 400) ∧ (placement 400 size.1 size.2).isOk = true := by
  decide +kernel

/-- Settles O38: the kernel runs the placement of each size; what one without an error delivers follows from its size. -/
theorem placementOfOtherSizes : Obligations.PlacementOfOtherSizes := by
  have hplaced (R C : Nat) (hsize : (R, C) ∈ completingOtherSizes) :
      ∃ p, placement 400 R C = .ok p ∧ p.pos = R * C / 8 ∧ p.fill = R * C % 8 / 4 := by
    obtain ⟨⟨hC1, hC, hN⟩, hok⟩ := placement_isOk_otherSizes _ hsize
    exact exists_placement hok hC1 hC hN
  have hpos (R C : Nat) (hsize : (R, C) ∈ completingOtherSizes) : ∃ p, placement 400 R C = .ok p ∧ p.pos = R * C / 8 :=
    (hplaced R C hsize).imp fun p hp => ⟨hp.1, hp.2.1⟩
  exact ⟨by decide +kernel, by decide +kernel, by decide +kernel, by decide +kernel, by decide +kernel,
    hplaced 2 2 (by decide), hpos 4 4 (by decide), hplaced 6 6 (by decide), hpos 8 10 (by decide), hpos 8 16 (by decide),
    hpos 16 8 (by decide)⟩

end Sys2Proof.Proofs

end

section

/-! PROOF. DM_PLACE (R133 to R136, R140): what it leaves in GA where its placement ends without an error, and its outcome,
which no codeword changes. -/

namespace Sys2Proof.Proofs

open Sys2Proof Sys2Proof.Machine Sys2Proof.Claims

/-! ## Cells by their index (R51) -/

theorem cellIndex_eq (r c : Nat) : cellIndex r c = 256 * r + c := by simp only [cellIndex, Config.gridDim]; omega

/-- Reading a cell, by its index in the window, after a rectangle write. -/
theorem read_writeRect_cell (g : Ram Cell) {rows cols : Nat} (f : Nat → Nat → Cell) (hcols : cols ≤ 256) {r c : Nat}
    (hc : c < 256) :
    (g.writeRect rows cols f).read (256 * r + c) = if r < rows ∧ c < cols then some (f r c) else g.read (256 * r + c) := by
  rw [← cellIndex_eq]
  exact Ram.read_writeRect g rows cols f r c hcols hc

/-! ## DM_PLACE completes where its placement does -/

/-- The state DM_PLACE leaves when it completes. -/
def placedState (s : State) (xs : List Nat) (p : Placed) : State :=
  { doneState s p.pos p.fill with
    ga := s.ga.writeRect s.arg1.toNat s.arg2.toNat fun r c => cellOfMark xs (markAt p.sheet r c) }

section

variable {s : State} {xs : List Nat} {p : Placed}

theorem placedState_inside (hC : s.arg2.toNat ≤ 256) {r c : Nat} (hr : r < s.arg1.toNat) (hc : c < s.arg2.toNat) :
    (placedState s xs p).ga.read (256 * r + c) = some (cellOfMark xs (markAt p.sheet r c)) :=
  (read_writeRect_cell s.ga _ hC (hc.trans_le hC)).trans (if_pos ⟨hr, hc⟩)

theorem placedState_outside (hC : s.arg2.toNat ≤ 256) {r c : Nat} (hc : c < 256)
    (hout : ¬ (r < s.arg1.toNat ∧ c < s.arg2.toNat)) :
    (placedState s xs p).ga.read (256 * r + c) = s.ga.read (256 * r + c) :=
  (read_writeRect_cell s.ga _ hC hc).trans (if_neg hout)

theorem exec_dmPlace_of_placed (hcw : CwHolds s xs) (hbytes : ∀ x ∈ xs, x ≤ 255) (hlen : xs.length ≤ 4096)
    (hR1 : 1 ≤ s.arg1.toNat) (hR : s.arg1.toNat ≤ 256) (hC1 : 1 ≤ s.arg2.toNat) (hC : s.arg2.toNat ≤ 256)
    (hplaced : placement xs.length s.arg1.toNat s.arg2.toNat = .ok p) :
    exec .dmPlace s = .next (placedState s xs p) := by
  have hoperands : placeOperands s = .ok xs :=
    placeOperands_of_cwHolds hcw hbytes hlen (inGrid_of hR1 hR) (inGrid_of hC1 hC)
  have hpos : p.pos ≤ xs.length := placement_pos_le hR hC hplaced
  obtain ⟨-, hfill⟩ := placement_values hC1 hC hplaced
  have hplacement : placement (lenN s) (arg1N s) (arg2N s) = .ok p := by
    rw [lenN, hcw.1]
    exact hplaced
  simp only [exec, execDmPlace, hoperands, hplacement, finish_ok]
  exact congrArg Host.Outcome.next (complete_eq_doneState (by omega) (by omega) _)

end

/-! ## The example of R140 -/

/-- The sheet of a placement that ends without an error. -/
def placedSheet (N R C : Nat) : List (List Mark) :=
  match placement N R C with
  | .ok p => p.sheet
  | .error _ => []

theorem placedSheet_of_ok {N R C : Nat} {p : Placed} (hok : placement N R C = .ok p) : placedSheet N R C = p.sheet := by
  rw [placedSheet, hok]

/-- R140's codewords. -/
def exampleCodewords : List Nat := [142, 164, 186, 114, 25, 5, 88, 102]

/-- R140's rows of GA, column 0 in bit 7. -/
def exampleRows : List Nat := [0x96, 0x82, 0x8E, 0x84, 0x07, 0xD8, 0xEC, 0x3A]

theorem placement_isOk_example : (placement 8 8 8).isOk = true := by decide +kernel

theorem placedSheet_example : ∀ r < 8, ∀ c < 8,
    cellOfMark exampleCodewords (markAt (placedSheet 8 8 8) r c) = .set ((exampleRows.getD r 0).testBit (7 - c)) := by
  decide +kernel

theorem dmPlace_example {s : State} (hcw : CwHolds s exampleCodewords) (hR : s.arg1.toNat = 8) (hC : s.arg2.toNat = 8) :
    ∃ t, exec .dmPlace s = .next t ∧ t = { doneState s 8 0 with ga := t.ga } ∧
      ∀ r c v, c < 8 → exampleRows[r]? = some v → t.ga.read (256 * r + c) = some (.set (v.testBit (7 - c))) := by
  obtain ⟨p, hplaced, hpos, hfill⟩ := exists_placement placement_isOk_example (by decide) (by decide) le_rfl
  have hplacement : placement exampleCodewords.length s.arg1.toNat s.arg2.toNat = .ok p := by
    rw [hR, hC]
    exact hplaced
  refine ⟨_, exec_dmPlace_of_placed hcw (by decide) (by decide) (by omega) (by omega) (by omega) (by omega) hplacement,
    by rw [placedState, hpos, hfill], fun r c v hc hv => ?_⟩
  obtain ⟨hr, rfl⟩ := List.getElem?_eq_some_iff.1 hv
  have hr8 : r < 8 := hr
  have hcell := placedSheet_example r hr8 c hc
  rw [placedSheet_of_ok hplaced, List.getD_eq_getElem _ _ hr] at hcell
  rw [placedState_inside (by omega) (by omega) (by omega), hcell]

/-- Settles O39: R140's cells by the kernel's run of the 8 × 8 placement, any other size by the mark of the cell. -/
theorem dmPlaceCellsHoldCodewordBits : Obligations.DmPlaceCellsHoldCodewordBits := by
  refine ⟨fun s => dmPlace_example, fun s xs p hcw hbytes hlen hR1 hR hC1 hC hplaced =>
    ⟨_, exec_dmPlace_of_placed hcw hbytes hlen hR1 hR hC1 hC hplaced, rfl, fun r c pos bit hr hc hmark => ?_,
      fun r c b hr hc hmark => ?_, fun r c hc hout => placedState_outside hC hc hout⟩⟩
  · rw [placedState_inside hC hr hc, hmark]
    rfl
  · rw [placedState_inside hC hr hc, hmark]
    rfl

/-! ## The ECC200 sizes of at most 22 rows and 32 columns (R136) -/

/-- The 13 placements, each run by the kernel with the fewest codewords: one evaluation for each size, as one for all of them
takes too much memory. -/
theorem placement_isOk_smallEcc200 : ∀ size ∈ smallEcc200Sizes,
    (placement (size.1 * size.2 / 8) size.1 size.2).isOk = true := by
  simp only [smallEcc200Sizes, List.forall_mem_cons, List.not_mem_nil, false_implies, implies_true, and_true]
  and_intros <;> decide +kernel

theorem smallEcc200Sizes_bounds : ∀ size ∈ smallEcc200Sizes, (1 ≤ size.1 ∧ size.1 ≤ 256) ∧ (1 ≤ size.2 ∧ size.2 ≤ 256) ∧
    size.1 * size.2 % 8 / 4 = if size ∈ [(10, 10), (14, 14), (18, 18), (22, 22)] then 1 else 0 := by
  decide

theorem cellOfMark_set (xs : List Nat) {m : Mark} (h : m ≠ .unset) : ∃ b, cellOfMark xs m = .set b := by
  cases m with
  | unset => exact absurd rfl h
  | codeword pos bit => exact ⟨_, rfl⟩
  | fixed dark => exact ⟨_, rfl⟩

/-- Settles O35: the kernel runs each of the 13 placements with the fewest codewords, and the rest follows for any number. -/
theorem dmPlaceOnSmallEcc200Sizes : Obligations.DmPlaceOnSmallEcc200Sizes := by
  rintro s xs R C hsize rfl rfl hcw hbytes hlen
  obtain ⟨⟨hR1, hR⟩, ⟨hC1, hC⟩, hfill⟩ := smallEcc200Sizes_bounds _ hsize
  have hok := placement_isOk_smallEcc200 _ hsize
  refine ⟨fun henough => ?_, fun hshort => ?_⟩
  · obtain ⟨p, hplaced, hpos, hpfill⟩ := exists_placement hok hC1 hC henough
    obtain ⟨_, _, _, _, hfull⟩ := fullPlacement_of_ok hC1 hC hplaced
    refine ⟨_, exec_dmPlace_of_placed hcw hbytes hlen hR1 hR hC1 hC hplaced, ?_, fun r c hr hc => ?_,
      fun r c hc hout => placedState_outside hC hc hout⟩
    · rw [← hfill, ← hpos, ← hpfill]
      rfl
    · rw [placedState_inside hC hr hc]
      exact (cellOfMark_set xs (hfull.full r c hr hc)).imp fun b hb => congrArg some hb
  · obtain ⟨p, hplaced, hpos, -⟩ := exists_placement hok hC1 hC le_rfl
    have htooFew : xs.length < p.pos := by rw [hpos, ← hshort]; exact Nat.lt_succ_self _
    have hunder := placement_of_tooFew hplaced htooFew
    obtain ⟨-, t, hexec, hframe, -⟩ := dmPlaceDynamicErrorFrame s xs _ _ _ hcw hbytes hlen hR1 hR hC1 hC hunder
    exact ⟨t, hexec, hframe⟩

/-! ## The outcome without the codewords (R134) -/

/-- The error code and the results of DM_PLACE by N and the size of the matrix: R133's checks, then the placement. -/
def placeReport (N R C : Nat) : ErrCode × Nat × Nat :=
  if inGrid R && inGrid C then
    if N ≤ Config.cwDepth then
      match placement N R C with
      | .ok p => (.none, p.pos, p.fill)
      | .error (.error code r0 r1) => (code, r0, r1)
      | .error (.fault _) => (.none, 0, 0)
    else (.length, N, 0)
  else (.geometry, R, C)

/-- The error code and the results are those of the report. -/
def Reports (t : State) (report : ErrCode × Nat × Nat) : Prop :=
  t.errcode = report.1 ∧ t.result0 = resultWord report.2.1 ∧ t.result1 = resultWord report.2.2

/-- Codewords in range have no part in the code and the results (R134). -/
theorem dmPlace_reports {s : State} {xs : List Nat} (hcw : CwHolds s xs) (hbytes : ∀ x ∈ xs, x ≤ 255) :
    ∃ t, exec .dmPlace s = .next t ∧ Reports t (placeReport (lenN s) (arg1N s) (arg2N s)) := by
  have hread : readRanged s 255 0 (lenN s) = .ok xs := readRanged_of_cwHolds hcw hbytes
  unfold placeReport
  simp only [exec, execDmPlace, placeOperands]
  cases hgrid : inGrid (arg1N s) && inGrid (arg2N s) with
  | false => exact ⟨_, rfl, rfl, rfl, rfl⟩
  | true =>
    by_cases hlen : lenN s ≤ Config.cwDepth
    · obtain ⟨hrows, hcols⟩ := (Bool.and_eq_true _ _).mp hgrid
      have hends : Places (lenN s) (placement (lenN s) (arg1N s) (arg2N s)) _ :=
        places_placement (inGrid_le hrows).2 (inGrid_le hcols).2
      simp only [decide_eq_true hlen, hread, require_true, work_ok_bind, if_true, if_pos hlen]
      rcases hplaced : placement (lenN s) (arg1N s) (arg2N s) with (⟨code, r0, r1⟩ | f) | p
      · exact ⟨_, rfl, rfl, rfl, rfl⟩
      · rw [hplaced] at hends
        exact hends.elim
      · exact ⟨_, rfl, rfl, rfl, rfl⟩
    · simp only [decide_eq_false hlen, if_neg hlen]
      exact ⟨_, rfl, rfl, rfl, rfl⟩

/-- Settles O37: both commands end with the report of the same N and size. -/
theorem dmPlaceOutcomeIgnoresCodewords : Obligations.DmPlaceOutcomeIgnoresCodewords := by
  intro s u xs ys hxs hys hxbytes hybytes hlen h1 h2
  obtain ⟨t, hs, hcode, hr0, hr1⟩ := dmPlace_reports hxs hxbytes
  obtain ⟨v, hu, hcode', hr0', hr1'⟩ := dmPlace_reports hys hybytes
  have hN : lenN s = lenN u := congrArg BitVec.toNat hlen
  have hR : arg1N s = arg1N u := congrArg BitVec.toNat h1
  have hC : arg2N s = arg2N u := congrArg BitVec.toNat h2
  rw [hN, hR, hC] at hcode hr0 hr1
  exact ⟨t, v, hs, hu, hcode.trans hcode'.symm, hr0.trans hr0'.symm, hr1.trans hr1'.symm⟩

end Sys2Proof.Proofs

end

section

/-! PROOF. DM_FRAME (R138, R139): the symbol matrix, region by region. -/

namespace Sys2Proof.Proofs

open Sys2Proof Sys2Proof.Machine Sys2Proof.Claims

/-! ## Regions of set cells -/

/-- The rows of a region whose cells are set. -/
def gridRows (rows cols : Nat) (m : Nat → Nat → Bool) : List (List Bool) :=
  (List.range rows).map fun r => (List.range cols).map (m r)

/-- A region of set cells is read whole (R138, R141). -/
theorem readRows_of_gridHolds {name : RamName} {g : Ram Cell} {rows cols : Nat} {m : Nat → Nat → Bool}
    (h : GridHolds g rows cols m) : readRows name g cols 0 rows = .ok (gridRows rows cols m) := by
  refine (readRows_eq_ok ..).2 ⟨by simp [gridRows], fun r hr => ⟨(List.range cols).map (m r), by simp [gridRows, hr],
    by simp, fun c hc => ?_⟩⟩
  rw [Nat.zero_add, cellIndex_eq, h r c hr hc]
  simp [hc]

theorem getD_gridRows {rows cols r c : Nat} (m : Nat → Nat → Bool) (hr : r < rows) (hc : c < cols) :
    ((gridRows rows cols m).getD r []).getD c false = m r c := by
  simp [gridRows, List.getD_eq_getElem?_getD, hr, hc]

/-! ## The cells of the symbol -/

/-- Place y of block i of n blocks of k places. -/
theorem block_lt {i n y k : Nat} (hi : i < n) (hy : y < k) : i * k + y < n * k := by
  have hblock : (i + 1) * k ≤ n * k := Nat.mul_le_mul_right k hi
  rw [Nat.add_mul] at hblock
  omega

theorem block_div {i y k : Nat} (hy : y < k) : (i * k + y) / k = i := by
  rw [Nat.mul_comm, Nat.mul_add_div (by omega), Nat.div_eq_of_lt hy, Nat.add_zero]

/-- Cell (a, b) of the region in row i and column j of regions: the top edge, the bottom edge, the left edge, the right edge
and the inside, in the order of R138. -/
theorem frameCell_region (m : List (List Bool)) {h w i j a b : Nat} (ha : a < h + 2) (hb : b < w + 2) :
    frameCell m h w (i * (h + 2) + a) (j * (w + 2) + b) =
      if a = 0 then decide ((j * (w + 2) + b) % 2 = 0)
      else if a = h + 1 then true
      else if b = 0 then true
      else if b = w + 1 then decide ((i * h + (a - 1)) % 2 = 0)
      else (m.getD (i * h + (a - 1)) []).getD (j * w + (b - 1)) false := by
  simp only [frameCell, block_div ha, block_div hb, Nat.mul_add_mod_of_lt ha, Nat.mul_add_mod_of_lt hb]

/-- The state DM_FRAME leaves when it completes. -/
def framedState (s : State) (h w rv rh : Nat) (m : List (List Bool)) : State :=
  { doneState s (rv * (h + 2)) (rh * (w + 2)) with
    gb := s.gb.writeRect (rv * (h + 2)) (rh * (w + 2)) fun r c => .set (frameCell m h w r c) }

section

variable {h w rv rh : Nat} (hcols : rh * (w + 2) ≤ 256)

include hcols

theorem framedState_region (s : State) (m : List (List Bool)) {i j a b : Nat} (hi : i < rv) (hj : j < rh) (ha : a < h + 2)
    (hb : b < w + 2) :
    (framedState s h w rv rh m).gb.read (256 * (i * (h + 2) + a) + (j * (w + 2) + b)) =
      some (.set (frameCell m h w (i * (h + 2) + a) (j * (w + 2) + b))) :=
  have hr := block_lt hi ha
  have hc := block_lt hj hb
  (read_writeRect_cell s.gb _ hcols (hc.trans_le hcols)).trans (if_pos ⟨hr, hc⟩)

theorem exec_dmFrame {s : State} {m : List (List Bool)} (hrows : rv * (h + 2) ≤ 256) (h1 : arg1N s = h) (h2 : arg2N s = w)
    (h3 : arg3Low s = rv) (h4 : arg3High s = rh) (hgeometry : frameGeometryOk h w rv rh = true)
    (hread : readRows .ga s.ga (rh * w) 0 (rv * h) = .ok m) :
    exec .dmFrame s = .next (framedState s h w rv rh m) := by
  simp only [exec, execDmFrame, h1, h2, h3, h4, require_of hgeometry, hread, work_ok_bind, finish_ok]
  exact congrArg Host.Outcome.next (complete_eq_doneState (by omega) (by omega) _)

end

/-- Settles O41: each cell named is a cell of its region, by `frameCell_region`. -/
theorem dmFrameCompletes : Obligations.DmFrameCompletes := by
  intro s h w rv rh m h1 h2 hrv hrh hh hw hh2 hw2 hrv1 hrh1 hrows hcols hgrid
  have hgeometry := frameGeometryOk_of hh hw hh2 hw2 hrv1 hrh1 hrows hcols
  refine ⟨_, exec_dmFrame hcols hrows h1 h2 ((arg3Low_eq s).trans hrv) ((arg3High_eq s).trans hrh) hgeometry
    (readRows_of_gridHolds hgrid), rfl, fun i j hi hj => ?_,
    fun r c hc hout => (read_writeRect_cell s.gb _ hcols hc).trans (if_neg hout)⟩
  have hcell (a b : Nat) (ha : a < h + 2) (hb : b < w + 2) :=
    (framedState_region hcols s (gridRows (rv * h) (rh * w) m) hi hj ha hb).trans
      (congrArg (fun v => some (Cell.set v)) (frameCell_region _ ha hb))
  refine ⟨fun x hx => ⟨?_, ?_⟩, fun y hy => ⟨?_, ?_, fun x hx => ?_⟩⟩
  · exact hcell 0 x (by omega) hx
  · refine (hcell (h + 1) x (by omega) hx).trans ?_
    rw [if_neg (by omega), if_pos rfl]
  · rw [Nat.add_assoc]
    refine (hcell (1 + y) 0 (by omega) (by omega)).trans ?_
    rw [if_neg (by omega), if_neg (by omega), if_pos rfl]
  · rw [Nat.add_assoc, Nat.add_assoc _ w]
    refine (hcell (1 + y) (w + 1) (by omega) (by omega)).trans ?_
    rw [if_neg (by omega), if_neg (by omega), if_neg (by omega), if_pos rfl, Nat.add_sub_cancel_left]
  · rw [Nat.add_assoc, Nat.add_assoc (j * (w + 2)) 1 x]
    refine (hcell (1 + y) (1 + x) (by omega) (by omega)).trans ?_
    rw [if_neg (by omega), if_neg (by omega), if_neg (by omega), if_neg (by omega), Nat.add_sub_cancel_left,
      Nat.add_sub_cancel_left, getD_gridRows m (block_lt hi hy) (block_lt hj hx)]

end Sys2Proof.Proofs

end

section

/-! PROOF. GRID_EMIT (R141): the events of the rows of a grid. -/

namespace Sys2Proof.Proofs

open Sys2Proof Sys2Proof.Machine Sys2Proof.Claims

/-- A row's number has no bit of the fields above it (R93). -/
theorem evGroup_msg {y : Nat} (hy : y < 256) : evGroup kindMsg y = word (0x10000000 + 2 * 0x1000000 + y) := by
  have hor : 0x10000000 ||| (kindMsg <<< 24) ||| y = 0x10000000 + 2 * 0x1000000 + y :=
    (Nat.two_pow_add_eq_or_of_lt (i := 8) hy 0x120000).symm
  rw [evGroup, hor]
  rfl

theorem gridRowEvents_eq {cols y : Nat} (m : Nat → Nat → Bool) (hy : y < 256) :
    gridRowEvents y ((List.range cols).map (m y)) = gridRow cols m y := by
  simp only [gridRowEvents, gridRow, barGroup, evGroup_msg hy, evRow, evEndGroup, evEndRow, List.append_assoc,
    List.cons_append, List.nil_append]

/-- The events of consecutive rows in the words of R141. -/
theorem gridEvents_map (m : Nat → Nat → Bool) (cols n y : Nat) (hy : y + n ≤ 256) :
    gridEvents y ((List.range' y n).map fun r => (List.range cols).map (m r)) =
      (List.range' y n).flatMap (gridRow cols m) := by
  induction n generalizing y with
  | zero => rfl
  | succ n ih =>
    rw [List.range'_succ, List.map_cons, gridEvents, gridRowEvents_eq m (by omega), ih (y + 1) (by omega), List.flatMap_cons]

/-- The plan of a region of set cells: the events of its rows, and their number. -/
theorem gridEmitPlan_of_gridHolds {s : State} {selA : Bool} {m : Nat → Nat → Bool} (hrows1 : 1 ≤ arg1N s)
    (hrows : arg1N s ≤ 256) (hcols1 : 1 ≤ arg2N s) (hcols : arg2N s ≤ 256)
    (hgrid : GridHolds (if selA then s.ga else s.gb) (arg1N s) (arg2N s) m) :
    gridEmitPlan selA s = .ok ⟨((List.range (arg1N s)).flatMap (gridRow (arg2N s) m)).length,
      (List.range (arg1N s)).flatMap (gridRow (arg2N s) m)⟩ := by
  have hsize : (inGrid (arg1N s) && inGrid (arg2N s)) = true := by
    rw [inGrid_of hrows1 hrows, inGrid_of hcols1 hcols]
    rfl
  have hevents : gridEvents 0 (gridRows (arg1N s) (arg2N s) m) = (List.range (arg1N s)).flatMap (gridRow (arg2N s) m) := by
    have hall := gridEvents_map m (arg2N s) (arg1N s) 0 (by omega)
    rwa [← List.range_eq_range'] at hall
  have hcount : gridEventCount (gridRows (arg1N s) (arg2N s) m) =
      (gridEvents 0 (gridRows (arg1N s) (arg2N s) m)).length := by
    refine (length_gridEvents _ (fun row hrow => ?_) 0).symm
    obtain ⟨y, -, rfl⟩ := List.mem_map.1 hrow
    exact List.ne_nil_of_length_pos (by rw [List.length_map, List.length_range]; exact hcols1)
  cases selA with
  | true =>
    have hread : readRows .ga s.ga (arg2N s) 0 (arg1N s) = _ := readRows_of_gridHolds hgrid
    simp only [gridEmitPlan, require_of hsize, hread, work_ok_bind, if_true, hcount, hevents]
  | false =>
    have hread : readRows .gb s.gb (arg2N s) 0 (arg1N s) = _ := readRows_of_gridHolds hgrid
    simp only [gridEmitPlan, require_of hsize, hread, work_ok_bind, Bool.false_eq_true, if_false, hcount, hevents]

/-- Events that fit are written from EV_WPTR on (R92). -/
theorem emitted_of_plan {s : State} {evs : List Word} (hfits : s.evWptr.toNat + evs.length ≤ 8192) :
    ∃ t, finish s (emit s ⟨evs.length, evs⟩) = .next t ∧ Emitted s t evs := by
  have hcount : evs.length < 2 ^ 32 := by omega
  rw [emit_eq, if_pos hfits, finish_ok, complete_eq_doneState hcount (by decide)]
  exact ⟨_, rfl, rfl, Ram.read_writeBlock _ _ _⟩

/-- Settles O42: the plan is that of the rows, and its events fit. -/
theorem gridEmitCompletes : Obligations.GridEmitCompletes := by
  intro s selA m hrows1 hrows hcols1 hcols hgrid hfits
  have hexec : exec (.gridEmit selA) s = finish s (gridEmitPlan selA s >>= emit s) := rfl
  rw [hexec, gridEmitPlan_of_gridHolds hrows1 hrows hcols1 hcols hgrid]
  exact emitted_of_plan hfits

end Sys2Proof.Proofs

end

section

/-! PROOF. The linear layout (44_layout_bars.md): the row indicators (R149), the events and the event count of PDF_ROWS
(R150, R151), and the events of BAR_WALK (R153, R154). -/

namespace Sys2Proof.Proofs

open Sys2Proof Sys2Proof.Machine Sys2Proof.Claims

/-! ## The row indicators (R149) -/

section Indicators

variable {y r c level : Nat} (hy : y < r) (hr : r ≤ 90) (hc : c ≤ 30) (hlevel : level ≤ 8)

include hy hr hc hlevel

theorem leftIndicator_le : leftIndicator y r c level ≤ 899 := by
  have hbase : 30 * (y / 3) ≤ 870 := by omega
  unfold leftIndicator
  split_ifs <;> omega

theorem rightIndicator_le : rightIndicator y r c level ≤ 899 := by
  have hbase : 30 * (y / 3) ≤ 870 := by omega
  unfold rightIndicator
  split_ifs <;> omega

end Indicators

/-- Settles O44: the table by `leftOf_eq` and `rightOf_eq`, the bound for each of its six entries. -/
theorem rowIndicatorsAreCodewords : Obligations.RowIndicatorsAreCodewords := by
  intro y r c level hy hr _ hc hlevel
  exact ⟨(leftOf_eq ..).symm, (rightOf_eq ..).symm, leftIndicator_le hy hr hc hlevel,
    rightIndicator_le hy hr hc hlevel⟩

/-! ## Reads and events in the words of the rules -/

/-- A traversal that delivers a known value for each element delivers all of them in order. -/
theorem mapM_eq_map {α β : Type} {f : α → Work β} {g : α → β} {l : List α} (h : ∀ a ∈ l, f a = .ok (g a)) :
    l.mapM f = .ok (l.map g) := by
  induction l with
  | nil => rfl
  | cons a l ih =>
    obtain ⟨ha, hrest⟩ := List.forall_mem_cons.1 h
    rw [List.mapM_cons, ha, ih hrest]
    rfl

/-- The fields of a START_GROUP do not overlap while the kind has 4 bits and the label 24 (R93). -/
theorem evGroup_eq {kind label : Nat} (hkind : kind < 2 ^ 4) (hlabel : label < 2 ^ 24) :
    evGroup kind label = word (0x10000000 + kind * 0x1000000 + label) := by
  have htop : 16 ||| kind = 16 + kind := (Nat.two_pow_add_eq_or_of_lt (i := 4) hkind 1).symm
  have hor : (16 <<< 24) ||| (kind <<< 24) ||| label = 0x10000000 + kind * 0x1000000 + label := by
    rw [← Nat.shiftLeft_or_distrib, htop, ← Nat.shiftLeft_add_eq_or_of_lt hlabel, Nat.shiftLeft_eq, Nat.add_mul]
  exact congrArg (BitVec.ofNat 32) hor

theorem evBar_eq {black : Bool} {width : Nat} (h : width < 4096) :
    evBar black width = word ((if black then 0x1000 else 0) + width) := by
  rw [← evBar_toNat h, word, BitVec.ofNat_toNat, BitVec.setWidth_eq]

/-- A command whose plan has these events, its count their number, completes with them if they fit (R92). -/
theorem emitted_of_events {s : State} {plan : EventPlan} {w : Work EventPlan} (hw : w = .ok plan)
    (hexact : Yields s w (fun plan => plan.events.length = plan.count))
    (hfits : s.evWptr.toNat + plan.events.length ≤ 8192) :
    ∃ t, finish s (w >>= emit s) = .next t ∧ Emitted s t plan.events := by
  subst hw
  have hcount : plan.count = plan.events.length := Eq.symm hexact
  have hplan : plan = ⟨plan.events.length, plan.events⟩ := by rw [← hcount]
  rw [work_ok_bind, hplan]
  exact emitted_of_plan hfits

/-! ## PDF_ROWS: the rows' patterns and events (R150) -/

theorem patternBits_eq_modulesOf (p n : Nat) : patternBits p n = modulesOf n p := by
  refine List.ext_getElem (by simp [modulesOf]) fun i hi _ => ?_
  have hin : i < n := by simpa using hi
  refine Option.some.inj ?_
  rw [← List.getElem?_eq_getElem, patternBits_getElem? hin]
  simp [modulesOf]

theorem patternGroup_eq {kind label : Nat} (hkind : kind < 2 ^ 4) (hlabel : label < 2 ^ 24) (pattern n : Nat) :
    patternGroup kind label pattern n = barGroup kind label (modulesOf n pattern) := by
  rw [patternGroup, barGroup, evGroup_eq hkind hlabel, patternBits_eq_modulesOf]
  rfl

/-- The codewords of row y, each with its pattern in the row's cluster (R150). -/
def rowPatterns (pat : Nat → Nat → Nat) (xs : List Nat) (r c level y : Nat) : List (Nat × Nat) :=
  (rowOfSymbol xs r c level y).map fun v => (v, pat (y % 3) v)

theorem pdfRowEvents_rowPatterns {s : State} {pat : Nat → Nat → Nat} {xs : List Nat} {r c level y : Nat}
    (hrow : ∀ v ∈ rowOfSymbol xs r c level y, v < 2 ^ 24) :
    pdfRowEvents s.pdfStart.toNat s.pdfStop.toNat (rowPatterns pat xs r c level y) = pdfRow s pat xs r c level y := by
  have hgroups : (rowPatterns pat xs r c level y).flatMap (fun q => patternGroup kindMsg q.1 q.2 17) =
      (rowOfSymbol xs r c level y).flatMap fun v => barGroup 2 v (modulesOf 17 (pat (y % 3) v)) := by
    rw [rowPatterns, List.flatMap_map]
    exact List.flatMap_congr fun v hv => patternGroup_eq (kind := 2) (by decide) (hrow v hv) ..
  have hstart : patternGroup kindStart 0 s.pdfStart.toNat 17 = _ := patternGroup_eq (kind := 0) (by decide) (by decide) ..
  have hstop : patternGroup kindStop 0 s.pdfStop.toNat 18 = _ := patternGroup_eq (kind := 1) (by decide) (by decide) ..
  rw [pdfRowEvents, hgroups, hstart, hstop]
  rfl

/-- Every codeword the rows use has its pattern in PT, which starts black and ends white (R150). -/
def PatternsHold (s : State) (pat : Nat → Nat → Nat) (xs : List Nat) (r c level : Nat) : Prop :=
  ∀ y v, y < r → v ∈ rowOfSymbol xs r c level y →
    (s.pt.read ((y % 3) * 1024 + v)).map BitVec.toNat = some (pat (y % 3) v) ∧
    (pat (y % 3) v).testBit 16 = true ∧ (pat (y % 3) v).testBit 0 = false

section PdfRows

variable {s : State} {xs : List Nat} {pat : Nat → Nat → Nat}

theorem readRowPatterns_of_patternsHold {r c level : Nat} (hlen : xs.length = r * c)
    (hpat : PatternsHold s pat xs r c level) :
    readRowPatterns s xs r c level 0 r = .ok ((List.range r).map (rowPatterns pat xs r c level)) := by
  rw [readRowPatterns_eq_mapM, ← List.range_eq_range']
  refine mapM_eq_map fun y hy => ?_
  have hy : y < r := List.mem_range.1 hy
  rw [rowCodewords_eq hlen hy, readPatterns_eq_mapM]
  refine mapM_eq_map fun v hv => ?_
  obtain ⟨hread, hfirst, hlast⟩ := hpat y v hy hv
  obtain ⟨p, hp, hpattern⟩ := Option.map_eq_some_iff.1 hread
  rw [← hpattern] at hfirst hlast ⊢
  exact readPattern_of_valid hp hfirst hlast

theorem pdfRowsPlan_of_patternsHold (hcw : CwHolds s xs) (hxs : ∀ x ∈ xs, x ≤ 928) (hr1 : 1 ≤ arg1N s)
    (hr : arg1N s ≤ 90) (hc1 : 1 ≤ arg2N s) (hc : arg2N s ≤ 30) (hlevel : arg3N s ≤ 8)
    (hlen : xs.length = arg1N s * arg2N s) (hpat : PatternsHold s pat xs (arg1N s) (arg2N s) (arg3N s)) :
    ∃ T, pdfRowsPlan s = .ok ⟨T, (List.range (arg1N s)).flatMap (pdfRow s pat xs (arg1N s) (arg2N s) (arg3N s))⟩ := by
  have hdata : readRanged s (Config.pdfCwCount - 1) 0 (lenN s) = .ok xs := readRanged_of_cwHolds hcw hxs
  have hevents : ((List.range (arg1N s)).map (rowPatterns pat xs (arg1N s) (arg2N s) (arg3N s))).flatMap
        (pdfRowEvents s.pdfStart.toNat s.pdfStop.toNat) =
      (List.range (arg1N s)).flatMap (pdfRow s pat xs (arg1N s) (arg2N s) (arg3N s)) := by
    rw [List.flatMap_map]
    refine List.flatMap_congr fun y hy => pdfRowEvents_rowPatterns fun v hv => ?_
    have hy : y < arg1N s := List.mem_range.1 hy
    rw [← rowCodewords_eq hlen hy] at hv
    exact (rowCodewords_lt hr hc hlevel hy hxs v hv).trans (by decide)
  rw [pdfRowsPlan_of hr1 hr hc1 hc hlevel (hcw.1.trans hlen), hdata, work_ok_bind,
    readRowPatterns_of_patternsHold hlen hpat, work_ok_bind, hevents]
  exact ⟨_, rfl⟩

end PdfRows

/-- Settles O45: the plan's events are those of the rows, and they fit. -/
theorem pdfRowsCompletes : Obligations.PdfRowsCompletes := by
  rintro s xs _ _ _ pat hcw hxs rfl rfl rfl hr1 hr hc1 hc hlevel hlen hpat hfits
  obtain ⟨T, hplan⟩ := pdfRowsPlan_of_patternsHold hcw hxs hr1 hr hc1 hc hlevel hlen hpat
  exact emitted_of_events hplan (yields_pdfRowsPlan s) hfits

/-! ## PDF_ROWS: the event count (R151) -/

/-- A pattern that is read is one of PT. -/
theorem pattern_of_readPattern {s : State} {cl v : Nat} {q : Nat × Nat} (h : readPattern s cl v = .ok q) :
    ∃ i p, s.pt.read i = some p ∧ q.2 = p.toNat := by
  obtain ⟨p, hp, h⟩ := (work_bind_eq_ok ..).1 h
  obtain ⟨_, -, h⟩ := (work_bind_eq_ok ..).1 h
  rw [← Except.ok.inj h]
  exact ⟨_, p, (readEntry_eq_ok ..).1 hp, rfl⟩

/-- A sum of terms that are all the same. -/
theorem sum_map_eq {α : Type} {f : α → Nat} {l : List α} {b : Nat} (h : ∀ a ∈ l, f a = b) :
    (l.map f).sum = l.length * b :=
  List.sum_eq_card_nsmul (l.map f) b (by simpa using h) |>.trans (by simp)

/-- A row of n patterns of 8 runs each, with the reset start and stop patterns, counts 23 + 10 · n events. -/
theorem pdfRowCount_of_runCount {row : List (Nat × Nat)} (hrow : ∀ q ∈ row, runCount (patternBits q.2 17) = 8) :
    pdfRowCount 0x1FEA8 0x3FA29 row = 23 + row.length * 10 := by
  have hstart : runCount (patternBits 0x1FEA8 17) = 8 := by decide
  have hstop : runCount (patternBits 0x3FA29 18) = 9 := by decide
  have hsum : (row.map fun q => 2 + runCount (patternBits q.2 17)).sum = row.length * 10 :=
    sum_map_eq fun q hq => by rw [hrow q hq]
  rw [pdfRowCount, hstart, hstop, hsum]

/-- A row shows its c data columns and two indicators (R150). -/
theorem length_rowCodewords {data : List Nat} {r c level y : Nat} (hlen : data.length = r * c) (hy : y < r) :
    (rowCodewords data r c level y).length = c + 2 := by
  rw [rowCodewords_eq hlen hy]
  simp [rowOfSymbol]

/-- Settles O46: each row that is read has c + 2 patterns of PT, and there are r of them. -/
theorem pdfRowsEventCountFormula : Obligations.PdfRowsEventCountFormula := by
  intro s plan hstart hstop hpt h
  obtain ⟨_, -, h⟩ := (work_bind_eq_ok ..).1 h
  obtain ⟨_, -, h⟩ := (work_bind_eq_ok ..).1 h
  obtain ⟨_, hlen, h⟩ := (work_bind_eq_ok ..).1 h
  obtain ⟨data, hdata, h⟩ := (work_bind_eq_ok ..).1 h
  obtain ⟨rows, hrows, h⟩ := (work_bind_eq_ok ..).1 h
  rw [require_eq_ok, decide_eq_true_eq] at hlen
  have hdatalen : data.length = arg1N s * arg2N s := ((readRanged_eq_ok ..).1 hdata).1.trans hlen
  rw [readRowPatterns_eq_mapM] at hrows
  obtain ⟨hrowslen, hrow⟩ := mapM_eq_ok hrows
  rw [List.length_range'] at hrowslen
  have hcount (row : List (Nat × Nat)) (hmem : row ∈ rows) :
      pdfRowCount s.pdfStart.toNat s.pdfStop.toNat row = 43 + 10 * arg2N s := by
    obtain ⟨y, hy, hrow⟩ := hrow row hmem
    have hy : y < arg1N s := by simpa [List.mem_range'_1] using hy
    rw [readPatterns_eq_mapM] at hrow
    obtain ⟨hwidth, hpatterns⟩ := mapM_eq_ok hrow
    rw [length_rowCodewords hdatalen hy] at hwidth
    have hruns (q : Nat × Nat) (hq : q ∈ row) : runCount (patternBits q.2 17) = 8 := by
      obtain ⟨v, -, hv⟩ := hpatterns q hq
      obtain ⟨i, p, hp, hpattern⟩ := pattern_of_readPattern hv
      rw [hpattern]
      exact hpt i p hp
    rw [hstart, hstop]
    exact (pdfRowCount_of_runCount hruns).trans (by omega)
  rw [← Except.ok.inj h]
  exact (sum_map_eq hcount).trans (by rw [hrowslen]; rfl)

/-! ## BAR_WALK (R153, R154) -/

theorem entryWidths_of_entryHolds {t : Word} {widths : List Nat} (h : EntryHolds t widths) :
    entryWidths t.toNat = widths := by
  obtain ⟨-, -, hcount, hwidths⟩ := h
  have hcount : entryCount t.toNat = widths.length := hcount
  rw [entryWidths, hcount]
  refine List.ext_getElem (by simp) fun e _ he => Option.some.inj ?_
  rw [← List.getElem?_eq_getElem he, (hwidths e he).1]
  simp [entryWidth, Nat.shiftRight_eq_div_pow]

/-- The first bar has the colour it began with, and the rest goes on in the other one. -/
theorem alternating_cons (black : Bool) (w : Nat) (widths : List Nat) :
    alternating black (w :: widths) = word ((if black then 0x1000 else 0) + w) :: alternating (!black) widths := by
  have hcolour (e : Nat) : ((e + 1) % 2 = 0) = (black = true) ↔ (e % 2 = 0) = ((!black) = true) := by
    have hparity : (e + 1) % 2 = 0 ↔ ¬ e % 2 = 0 := by omega
    cases black <;> simp [hparity]
  simp only [alternating, List.length_cons, List.range_succ_eq_map, List.map_cons, List.map_map]
  congr 1
  · simp
  · refine List.map_congr_left fun e _ => ?_
    simp only [Function.comp_apply, Nat.succ_eq_add_one, hcolour, List.getD_cons_succ]

theorem alternateBars_eq_alternating {black : Bool} {widths : List Nat} (h : ∀ w ∈ widths, w < 4096) :
    alternateBars black widths = alternating black widths := by
  induction widths generalizing black with
  | nil => rfl
  | cons w widths ih =>
    obtain ⟨hw, hrest⟩ := List.forall_mem_cons.1 h
    rw [alternateBars, evBar_eq hw, ih hrest, alternating_cons]

theorem entryGroup_of_entryHolds {kind x : Nat} {t : Word} {widths : List Nat} (hkind : kind < 2 ^ 4)
    (hx : x < 2 ^ 24) (h : EntryHolds t widths) (black1 : Bool) :
    entryGroup kind black1 (x, t.toNat) = walkGroup kind black1 x widths := by
  have hwidths : ∀ w ∈ entryWidths t.toNat, w < 4096 := fun w hw => by
    obtain ⟨e, -, rfl⟩ := List.mem_map.1 hw
    exact (Nat.mod_lt _ (by decide)).trans (by decide : 16 < 4096)
  rw [entryGroup, evGroup_eq hkind hx, alternateBars_eq_alternating hwidths, entryWidths_of_entryHolds h]
  rfl

/-- A table index with the entry it names, 0 where nothing is written. -/
def indexedEntry (s : State) (x : Nat) : Nat × Nat := (x, ((s.bt.read x).getD 0#32).toNat)

theorem indexedEntry_of_read {s : State} {x : Nat} {t : Word} (h : s.bt.read x = some t) :
    indexedEntry s x = (x, t.toNat) := by rw [indexedEntry, h]; rfl

theorem barWalkPlan_of_entriesHold {s : State} {xs : List Nat} {ws : Nat → List Nat} {kind : BitVec 4}
    (hcw : CwHolds s xs) (hlen : xs.length ≤ 4096)
    (hentries : ∀ x ∈ xs, x < 256 ∧ ∃ t, s.bt.read x = some t ∧ EntryHolds t (ws x)) (black1 : Bool) :
    ∃ T, barWalkPlan black1 kind s = .ok ⟨T, xs.flatMap fun x => walkGroup kind.toNat black1 x (ws x)⟩ := by
  have hlenN : decide (lenN s ≤ Config.cwDepth) = true := decide_eq_true (hcw.1.trans_le hlen)
  have hread : readRanged s (Config.bartabDepth - 1) 0 (lenN s) = .ok xs :=
    readRanged_of_cwHolds hcw fun x hx => Nat.le_sub_one_of_lt (hentries x hx).1
  have hrows : readBarEntries s xs = .ok (xs.map (indexedEntry s)) := by
    rw [readBarEntries_eq_mapM]
    refine mapM_eq_map fun x hx => ?_
    obtain ⟨-, t, ht, hholds⟩ := hentries x hx
    rw [indexedEntry_of_read ht]
    exact readBarEntry_of_entryHolds ht hholds
  have hevents : (xs.map (indexedEntry s)).flatMap (entryGroup kind.toNat black1) =
      xs.flatMap fun x => walkGroup kind.toNat black1 x (ws x) := by
    rw [List.flatMap_map]
    refine List.flatMap_congr fun x hx => ?_
    obtain ⟨hlt, t, ht, hholds⟩ := hentries x hx
    rw [indexedEntry_of_read ht]
    exact entryGroup_of_entryHolds kind.isLt (hlt.trans (by decide)) hholds black1
  rw [barWalkPlan, require_of hlenN, work_ok_bind, hread, work_ok_bind, hrows, work_ok_bind, hevents]
  exact ⟨_, rfl⟩

/-- Settles O47: the plan's events are one group for each index, and they fit. -/
theorem barWalkCompletes : Obligations.BarWalkCompletes := by
  intro s black1 kind xs ws hkind hcw hlen hentries hfits
  have hexec : exec (.barWalk black1 kind) s = finish s (barWalkPlan black1 kind s >>= emit s) :=
    if_pos (decide_eq_true hkind)
  obtain ⟨T, hplan⟩ := barWalkPlan_of_entriesHold hcw hlen hentries black1
  rw [hexec]
  exact emitted_of_events hplan (yields_barWalkPlan black1 kind s) hfits

end Sys2Proof.Proofs

end

section

/-! PROOF. The errors of the operand registers (60_exceptions.md R161 to R163): a command whose first failing check is one of
the operand registers ends there, with that check's error. -/

namespace Sys2Proof.Proofs

open Sys2Proof Sys2Proof.Machine Sys2Proof.Claims

/-! ## Checks that pass and checks that fail -/

theorem bind_of_error {α β : Type} {x : Work α} {h : Halt} (hx : x = .error h) (f : α → Work β) :
    (x >>= f) = .error h := by rw [hx, work_error_bind]

theorem require_bind_passed {β : Type} {ok : Bool} {code : ErrCode} {r0 r1 : Nat} {f : Unit → Work β}
    (hok : ok = true) : (require ok code r0 r1 >>= f) = f () := by rw [require_of hok, work_ok_bind]

theorem require_bind_failed {β : Type} {ok : Bool} {code : ErrCode} {r0 r1 : Nat} {f : Unit → Work β}
    (hok : ¬ ok = true) : (require ok code r0 r1 >>= f) = .error (.error code r0 r1) :=
  bind_of_error ((require_eq_error ..).2 ⟨Bool.eq_false_iff.2 hok, rfl⟩) f

/-- A command whose work stops with an error leaves the state of that error (R88). -/
theorem finish_of_error {s : State} {w : Work State} {code : ErrCode} {r0 r1 : Nat} (hw : w = .error (.error code r0 r1))
    (h0 : r0 < 2 ^ 32) (h1 : r1 < 2 ^ 32) : finish s w = .next (errState s code r0 r1) := by
  rw [hw, finish_error, raiseError_eq_errState h0 h1]

theorem exec_dmPlace_of_operands_error {s : State} {code : ErrCode} {r0 r1 : Nat}
    (h : placeOperands s = .error (.error code r0 r1)) (h0 : r0 < 2 ^ 32) (h1 : r1 < 2 ^ 32) :
    exec .dmPlace s = .next (errState s code r0 r1) := by
  simp only [exec, execDmPlace, h]
  exact finish_of_error rfl h0 h1

theorem exec_barWalk_of_plan_error {s : State} {black1 : Bool} {kind : BitVec 4} {code : ErrCode} {r0 r1 : Nat}
    (hkind : kind.toNat < 8) (h : barWalkPlan black1 kind s = .error (.error code r0 r1)) (h0 : r0 < 2 ^ 32)
    (h1 : r1 < 2 ^ 32) : exec (.barWalk black1 kind) s = .next (errState s code r0 r1) := by
  have hexec : exec (.barWalk black1 kind) s = finish s (barWalkPlan black1 kind s >>= emit s) :=
    if_pos (decide_eq_true hkind)
  rw [hexec]
  exact finish_of_error (bind_of_error h _) h0 h1

/-! ## The operand registers fit the result registers -/

theorem lenN_lt (s : State) : lenN s < 2 ^ 32 := s.len.isLt.trans (by decide)
theorem arg1N_lt (s : State) : arg1N s < 2 ^ 32 := word_toNat_lt s.arg1
theorem arg2N_lt (s : State) : arg2N s < 2 ^ 32 := word_toNat_lt s.arg2
theorem arg3N_lt (s : State) : arg3N s < 2 ^ 32 := word_toNat_lt s.arg3

/-! ## The checks, in the words of the rules -/

theorem eccShapeOk_iff {E B : Nat} : eccShapeOk E B = true ↔ 0 < B ∧ 0 < E ∧ E % B = 0 ∧ E / B ≤ 255 := by
  simp only [eccShapeOk, Config.rsKMax, Bool.not_eq_true', Bool.or_eq_false_iff, decide_eq_false_iff_not]
  omega

theorem inGrid_and_inGrid_iff {rows cols : Nat} :
    (inGrid rows && inGrid cols) = true ↔ (1 ≤ rows ∧ rows ≤ 256) ∧ 1 ≤ cols ∧ cols ≤ 256 := by
  simp only [inGrid, Config.gridDim, Bool.and_eq_true, decide_eq_true_eq]

theorem frameGeometryOk_iff {h w rv rh : Nat} :
    frameGeometryOk h w rv rh = true ↔ 2 ≤ h ∧ 2 ≤ w ∧ h % 2 = 0 ∧ w % 2 = 0 ∧ 1 ≤ rv ∧ 1 ≤ rh ∧
      rv * (h + 2) ≤ 256 ∧ rh * (w + 2) ≤ 256 := by
  simp only [frameGeometryOk, Config.gridDim, Bool.not_eq_true', Bool.or_eq_false_iff, decide_eq_false_iff_not]
  omega

/-- The three checksum commands of any length take 4096 elements at most, and in the verify form at least one (R99). -/
theorem checkLength_eq_error {verify : Bool} {n : Nat} (h : verify = true ∧ n = 0 ∨ 4096 < n) :
    checkLength verify n = .error (.error .length n 0) := by
  refine (require_eq_error ..).2 ⟨?_, rfl⟩
  simpa [Config.cwDepth, or_iff_not_imp_left] using h

/-! ## Each command's operand errors, in the order of its checks -/

section Operands

variable {s : State}

theorem rsEcc200_eccShape
    (h : arg2N s = 0 ∨ arg1N s = 0 ∨ arg1N s % arg2N s ≠ 0 ∨ 255 < arg1N s / arg2N s) :
    exec .rsEcc200 s = .next (errState s .eccShape (arg1N s) (arg2N s)) :=
  finish_of_error (require_bind_failed (by rw [eccShapeOk_iff]; omega)) (arg1N_lt s) (arg2N_lt s)

theorem rsEcc200_length (hB : 0 < arg2N s) (hE : 0 < arg1N s) (hmod : arg1N s % arg2N s = 0)
    (hk : arg1N s / arg2N s ≤ 255) (h : 4096 < lenN s + arg1N s) (hfit : lenN s + arg1N s < 2 ^ 32) :
    exec .rsEcc200 s = .next (errState s .length (lenN s + arg1N s) 0) :=
  finish_of_error
    ((require_bind_passed (eccShapeOk_iff.2 ⟨hB, hE, hmod, hk⟩)).trans
      (require_bind_failed (mt of_decide_eq_true (Nat.not_le.2 h))))
    hfit (by decide)

theorem pdfEcc_level (h : 8 < arg1N s) : exec .pdfEcc s = .next (errState s .level (arg1N s) 0) :=
  finish_of_error (require_bind_failed (mt of_decide_eq_true (Nat.not_le.2 h))) (arg1N_lt s) (by decide)

theorem pdfEcc_length (hlevel : arg1N s ≤ 8) (h : 4096 < lenN s + 2 ^ (arg1N s + 1)) :
    exec .pdfEcc s = .next (errState s .length (lenN s + 2 ^ (arg1N s + 1)) 0) := by
  have hk : 2 ^ (arg1N s + 1) ≤ 2 ^ 9 := Nat.pow_le_pow_right (by decide) (by omega)
  have hlen : lenN s < 2 ^ 13 := s.len.isLt
  exact finish_of_error
    ((require_bind_passed (decide_eq_true hlevel)).trans (require_bind_failed (mt of_decide_eq_true (Nat.not_le.2 h))))
    (by omega) (by decide)

theorem checksumWork_length {limit : Nat} {chk second : List Nat → Nat} {verify : Bool}
    (h : verify = true ∧ lenN s = 0 ∨ 4096 < lenN s) :
    finish s (checksumWork s limit chk second verify) = .next (errState s .length (lenN s) 0) :=
  finish_of_error (bind_of_error (checkLength_eq_error h) _) (lenN_lt s) (by decide)

theorem checksum_length {m : Bool → Instr} (hm : m ∈ [Instr.ckMod10, .ckMod103, .ckMod6]) {verify : Bool}
    (h : verify = true ∧ lenN s = 0 ∨ 4096 < lenN s) :
    exec (m verify) s = .next (errState s .length (lenN s) 0) := by
  simp only [List.mem_cons, List.not_mem_nil, or_false] at hm
  rcases hm with rfl | rfl | rfl
  · exact (exec_ckMod10_eq verify s).trans (checksumWork_length h)
  · exact (exec_ckMod103_eq verify s).trans (checksumWork_length h)
  · exact (exec_ckMod6_eq verify s).trans (checksumWork_length h)

theorem ckFcs_length (verify : Bool) (h : lenN s ≠ 13 + flagN verify) :
    exec (.ckFcs verify) s = .next (errState s .length (lenN s) 0) :=
  finish_of_error (require_bind_failed (mt of_decide_eq_true h)) (lenN_lt s) (by decide)

theorem dmPlace_geometry (h : ¬ ((1 ≤ arg1N s ∧ arg1N s ≤ 256) ∧ 1 ≤ arg2N s ∧ arg2N s ≤ 256)) :
    exec .dmPlace s = .next (errState s .geometry (arg1N s) (arg2N s)) :=
  exec_dmPlace_of_operands_error (require_bind_failed (mt inGrid_and_inGrid_iff.1 h)) (arg1N_lt s) (arg2N_lt s)

theorem gridEmit_geometry (h : ¬ ((1 ≤ arg1N s ∧ arg1N s ≤ 256) ∧ 1 ≤ arg2N s ∧ arg2N s ≤ 256)) (selA : Bool) :
    exec (.gridEmit selA) s = .next (errState s .geometry (arg1N s) (arg2N s)) :=
  finish_of_error (bind_of_error (require_bind_failed (mt inGrid_and_inGrid_iff.1 h)) _) (arg1N_lt s) (arg2N_lt s)

theorem dmPlace_length (hr1 : 1 ≤ arg1N s) (hr : arg1N s ≤ 256) (hc1 : 1 ≤ arg2N s) (hc : arg2N s ≤ 256)
    (h : 4096 < lenN s) : exec .dmPlace s = .next (errState s .length (lenN s) 0) :=
  exec_dmPlace_of_operands_error
    ((require_bind_passed (inGrid_and_inGrid_iff.2 ⟨⟨hr1, hr⟩, hc1, hc⟩)).trans
      (require_bind_failed (mt of_decide_eq_true (Nat.not_le.2 h))))
    (lenN_lt s) (by decide)

theorem dmFrame_geometry (h : ¬ frameGeometryOk (arg1N s) (arg2N s) (arg3Low s) (arg3High s) = true) :
    exec .dmFrame s = .next (errState s .geometry (arg1N s) (arg2N s)) :=
  finish_of_error (require_bind_failed h) (arg1N_lt s) (arg2N_lt s)

theorem pdfRows_geometry (h : ¬ (1 ≤ arg1N s ∧ arg1N s ≤ 90 ∧ 1 ≤ arg2N s ∧ arg2N s ≤ 30)) :
    exec .pdfRows s = .next (errState s .geometry (arg1N s) (arg2N s)) :=
  finish_of_error (bind_of_error (require_bind_failed (mt of_decide_eq_true h)) _) (arg1N_lt s) (arg2N_lt s)

theorem pdfRows_level (hgeometry : 1 ≤ arg1N s ∧ arg1N s ≤ 90 ∧ 1 ≤ arg2N s ∧ arg2N s ≤ 30) (h : 8 < arg3N s) :
    exec .pdfRows s = .next (errState s .level (arg3N s) 0) := by
  have hplan : pdfRowsPlan s = .error (.error .level (arg3N s) 0) :=
    (require_bind_passed (decide_eq_true hgeometry)).trans (require_bind_failed (mt of_decide_eq_true (Nat.not_le.2 h)))
  exact finish_of_error (bind_of_error hplan _) (arg3N_lt s) (by decide)

theorem pdfRows_length (hgeometry : 1 ≤ arg1N s ∧ arg1N s ≤ 90 ∧ 1 ≤ arg2N s ∧ arg2N s ≤ 30) (hlevel : arg3N s ≤ 8)
    (h : lenN s ≠ arg1N s * arg2N s) :
    exec .pdfRows s = .next (errState s .length (lenN s) (arg1N s * arg2N s)) := by
  have hplan : pdfRowsPlan s = .error (.error .length (lenN s) (arg1N s * arg2N s)) :=
    (require_bind_passed (decide_eq_true hgeometry)).trans
      ((require_bind_passed (decide_eq_true hlevel)).trans (require_bind_failed (mt of_decide_eq_true h)))
  obtain ⟨-, hr, -, hc⟩ := hgeometry
  have hproduct : arg1N s * arg2N s ≤ 90 * 30 := Nat.mul_le_mul hr hc
  exact finish_of_error (bind_of_error hplan _) (lenN_lt s) (by omega)

theorem barWalk_length (black1 : Bool) (kind : BitVec 4) (hkind : kind.toNat < 8) (h : 4096 < lenN s) :
    exec (.barWalk black1 kind) s = .next (errState s .length (lenN s) 0) :=
  exec_barWalk_of_plan_error hkind (require_bind_failed (mt of_decide_eq_true (Nat.not_le.2 h))) (lenN_lt s) (by decide)

end Operands

/-- Settles O49: each clause is the first failing check of its command. -/
theorem operandErrors : Obligations.OperandErrors := by
  intro s
  refine ⟨rsEcc200_eccShape, rsEcc200_length, pdfEcc_level, pdfEcc_length, fun m hm => ⟨fun h => ?_, fun verify h => ?_⟩,
    ckFcs_length, fun h => ?_, dmPlace_length, fun h => dmFrame_geometry fun hok => ?_,
    fun h => pdfRows_geometry (by unfold arg1N arg2N; omega), fun hr1 hr hc1 hc => ?_, barWalk_length⟩
  · have hlength := checksum_length (s := s) hm (verify := true) (.inl ⟨rfl, h⟩)
    rwa [lenN, h] at hlength
  · exact checksum_length hm (.inr h)
  · have hgrid : ¬ ((1 ≤ arg1N s ∧ arg1N s ≤ 256) ∧ 1 ≤ arg2N s ∧ arg2N s ≤ 256) := by unfold arg1N arg2N; omega
    exact ⟨dmPlace_geometry hgrid, gridEmit_geometry hgrid⟩
  · rw [frameGeometryOk_iff, arg3Low_eq, arg3High_eq] at hok
    unfold arg1N arg2N at hok
    omega
  · exact ⟨pdfRows_level ⟨hr1, hr, hc1, hc⟩, pdfRows_length ⟨hr1, hr, hc1, hc⟩⟩

end Sys2Proof.Proofs

end

section

/-! PROOF. The errors of what a command reads (60_exceptions.md R162, R163): the first element of CW out of range, the first
UNSET cell of a region and the first invalid table entry end the command, each naming what it found. -/

namespace Sys2Proof.Proofs

open Sys2Proof Sys2Proof.Machine Sys2Proof.Claims

/-! ## RANGE: the first element of CW above the limit (R99) -/

theorem readRanged_of_firstAbove {s : State} {limit i v n : Nat} (hfirst : FirstAbove s limit i v) (hi : i < n) :
    readRanged s limit 0 n = .error (.error .range i v) := by
  obtain ⟨hbefore, hread, hgt⟩ := hfirst
  obtain ⟨u, hu, rfl⟩ := Option.map_eq_some_iff.1 hread
  refine (readRanged_eq_error ..).2 ⟨i, hi, ?_⟩
  simp only [Nat.zero_add]
  exact ⟨hbefore, .inr ⟨u, hu, hgt, rfl⟩⟩

/-- An element of CW fits a result register. -/
theorem element_lt {s : State} {i v : Nat} (h : (s.cw.read i).map BitVec.toNat = some v) : v < 2 ^ 32 := by
  obtain ⟨u, -, rfl⟩ := Option.map_eq_some_iff.1 h
  exact u.isLt.trans (by decide)

theorem firstAbove_lt {s : State} {limit i v : Nat} (hfirst : FirstAbove s limit i v) : v < 2 ^ 32 :=
  element_lt hfirst.2.1

section Elements

variable {s : State} {i v : Nat} (hi : i < lenN s)

include hi

theorem index_lt : i < 2 ^ 32 := hi.trans (lenN_lt s)

theorem checksumWork_range {limit : Nat} {chk second : List Nat → Nat} (hlen : lenN s ≤ 4096)
    (hfirst : FirstAbove s limit i v) (verify : Bool) :
    finish s (checksumWork s limit chk second verify) = .next (errState s .range i v) := by
  have hcheck : checkLength verify (lenN s) = .ok () := checkLength_of (by omega) hlen
  refine finish_of_error ?_ (index_lt hi) (firstAbove_lt hfirst)
  rw [checksumWork, hcheck, work_ok_bind, bind_of_error (readRanged_of_firstAbove hfirst hi)]

theorem ckFcs_range_byte (hfirst : FirstAbove s 255 i v) (hbyte : i < 13) (verify : Bool)
    (hlen : lenN s = 13 + flagN verify) : exec (.ckFcs verify) s = .next (errState s .range i v) :=
  finish_of_error
    ((require_bind_passed (decide_eq_true hlen)).trans (bind_of_error (readRanged_of_firstAbove hfirst hbyte) _))
    (index_lt hi) (firstAbove_lt hfirst)

theorem rsEcc200_range (hfirst : FirstAbove s 255 i v) (hshape : EccShape (lenN s) (arg1N s) (arg2N s)) :
    exec .rsEcc200 s = .next (errState s .range i v) := by
  obtain ⟨-, -, -, -, hfit⟩ := id hshape
  exact finish_of_error
    ((require_bind_passed (eccShapeOk_of hshape)).trans
      ((require_bind_passed (decide_eq_true hfit)).trans (bind_of_error (readRanged_of_firstAbove hfirst hi) _)))
    (index_lt hi) (firstAbove_lt hfirst)

theorem pdfEcc_range (hfirst : FirstAbove s 928 i v) (hlevel : arg1N s ≤ 8)
    (hfit : lenN s + 2 ^ (arg1N s + 1) ≤ 4096) : exec .pdfEcc s = .next (errState s .range i v) :=
  finish_of_error
    ((require_bind_passed (decide_eq_true hlevel)).trans
      ((require_bind_passed (decide_eq_true hfit)).trans (bind_of_error (readRanged_of_firstAbove hfirst hi) _)))
    (index_lt hi) (firstAbove_lt hfirst)

theorem dmPlace_range (hlen : lenN s ≤ 4096) (hfirst : FirstAbove s 255 i v) (hr1 : 1 ≤ arg1N s) (hr : arg1N s ≤ 256)
    (hc1 : 1 ≤ arg2N s) (hc : arg2N s ≤ 256) : exec .dmPlace s = .next (errState s .range i v) :=
  exec_dmPlace_of_operands_error
    ((require_bind_passed (inGrid_and_inGrid_iff.2 ⟨⟨hr1, hr⟩, hc1, hc⟩)).trans
      ((require_bind_passed (decide_eq_true hlen)).trans (readRanged_of_firstAbove hfirst hi)))
    (index_lt hi) (firstAbove_lt hfirst)

theorem pdfRows_range (hfirst : FirstAbove s 928 i v) (hr1 : 1 ≤ arg1N s) (hr : arg1N s ≤ 90) (hc1 : 1 ≤ arg2N s)
    (hc : arg2N s ≤ 30) (hlevel : arg3N s ≤ 8) (hlen : lenN s = arg1N s * arg2N s) :
    exec .pdfRows s = .next (errState s .range i v) := by
  have hplan : pdfRowsPlan s = .error (.error .range i v) :=
    (pdfRowsPlan_of hr1 hr hc1 hc hlevel hlen).trans (bind_of_error (readRanged_of_firstAbove hfirst hi) _)
  exact finish_of_error (bind_of_error hplan _) (index_lt hi) (firstAbove_lt hfirst)

theorem barWalk_range (hlen : lenN s ≤ 4096) (hfirst : FirstAbove s 255 i v) (black1 : Bool) (kind : BitVec 4)
    (hkind : kind.toNat < 8) : exec (.barWalk black1 kind) s = .next (errState s .range i v) :=
  exec_barWalk_of_plan_error hkind
    ((require_bind_passed (decide_eq_true hlen)).trans (bind_of_error (readRanged_of_firstAbove hfirst hi) _))
    (index_lt hi) (firstAbove_lt hfirst)

end Elements

/-- CK_FCS's supplied value has its own range, checked after the 13 bytes (R106). -/
theorem ckFcs_range_supplied {s : State} {v : Nat} (hbytes : ∀ j, j < 13 → ∃ u, s.cw.read j = some u ∧ u.toNat ≤ 255)
    (hlen : lenN s = 14) (hread : (s.cw.read 13).map BitVec.toNat = some v) (hgt : 0x7FF < v) :
    exec (.ckFcs true) s = .next (errState s .range 13 v) := by
  obtain ⟨bytes, hok⟩ := readRanged_ok_of_written (s := s) (limit := 255) (i := 0) (n := 13)
    fun j hj => by rw [Nat.zero_add]; exact hbytes j hj
  have hsupplied : readRanged s fcsMask 13 1 = .error (.error .range 13 v) := by
    obtain ⟨u, hu, rfl⟩ := Option.map_eq_some_iff.1 hread
    exact (readRanged_eq_error ..).2 ⟨0, by decide, nofun, .inr ⟨u, hu, hgt, rfl⟩⟩
  refine finish_of_error ?_ (by decide) (element_lt hread)
  refine (require_bind_passed (decide_eq_true hlen)).trans ?_
  exact (congrArg (· >>= _) hok).trans (bind_of_error hsupplied _)

/-- Settles O50: each command's checks pass, and its read of CW stops at the element. -/
theorem firstElementOutOfRangeIsReported : Obligations.FirstElementOutOfRangeIsReported := by
  intro s i v hi hlen
  refine ⟨fun hfirst verify => (exec_ckMod10_eq verify s).trans (checksumWork_range hi hlen hfirst verify),
    fun hfirst verify => (exec_ckMod6_eq verify s).trans (checksumWork_range hi hlen hfirst verify),
    ckFcs_range_byte hi, ?_, rsEcc200_range hi, pdfEcc_range hi, dmPlace_range hi hlen, pdfRows_range hi,
    barWalk_range hi hlen⟩
  rintro hbytes hcount rfl hread hgt
  exact ckFcs_range_supplied hbytes hcount hread hgt

/-! ## INCOMPLETE: the first UNSET cell (R138, R141) -/

/-- A traversal of the numbers below n stops at the first one at which its work stops. -/
theorem mapM_range_eq_error {β : Type} {f : Nat → Work β} {n k : Nat} {h : Halt} (hk : k < n)
    (hbefore : ∀ j, j < k → ∃ y, f j = .ok y) (hstop : f k = .error h) : (List.range' 0 n).mapM f = .error h := by
  refine mapM_eq_error (k := k) (a := k) (by simp [hk]) (fun j b hj hb => ?_) hstop
  obtain ⟨-, rfl⟩ : j < n ∧ j = b := by simpa [List.getElem?_range', List.getElem?_eq_some_iff] using hb
  exact hbefore j hj

/-- Two numbers, the second of 16 bits, as the halves of a result (R162). -/
theorem report_eq {a b : Nat} (hb : b < 65536) : (a <<< 16) ||| b = 65536 * a + b := by
  rw [← Nat.shiftLeft_add_eq_or_of_lt (i := 16) hb, Nat.shiftLeft_eq, Nat.mul_comm]

theorem readRows_of_firstUnset {name : RamName} {g : Ram Cell} {rows cols r c : Nat} (hcols : cols ≤ 256)
    (hfirst : FirstUnset g rows cols r c) :
    readRows name g cols 0 rows = .error (.error .incomplete 0 (65536 * r + c)) := by
  obtain ⟨hr, hc, hunset, hbefore⟩ := hfirst
  have hset (y x : Nat) (hy : y < rows) (hx : x < cols) (hlt : y < r ∨ y = r ∧ x < c) :
      ∃ b, readSetCell name g y x = .ok b := by
    obtain ⟨b, hb⟩ := hbefore y x hy hx hlt
    exact ⟨b, (readSetCell_eq_ok ..).2 (cellIndex_eq y x ▸ hb)⟩
  have hcell : readSetCell name g r c = .error (.error .incomplete 0 (65536 * r + c)) :=
    (readSetCell_eq_error ..).2 (.inr ⟨cellIndex_eq r c ▸ hunset, by rw [report_eq (by omega)]⟩)
  rw [readRows_eq_mapM]
  refine mapM_range_eq_error hr (fun y hy => ?_) ?_ <;> rw [readRow_eq_mapM]
  · exact mapM_ok fun x hx => hset y x (hy.trans hr) (by simpa [List.mem_range'_1] using hx) (.inl hy)
  · exact mapM_range_eq_error hc (fun x hx => hset r x hr (hx.trans hc) (.inr ⟨rfl, hx⟩)) hcell

/-- A cell of the grid, as a report, fits a result register. -/
theorem cellReport_of_firstUnset_lt {g : Ram Cell} {rows cols r c : Nat} (hrows : rows ≤ 256) (hcols : cols ≤ 256)
    (hfirst : FirstUnset g rows cols r c) : 65536 * r + c < 2 ^ 32 := by
  obtain ⟨hr, hc, -, -⟩ := hfirst
  omega

theorem dmFrame_incomplete {s : State} {r c : Nat}
    (hgeometry : frameGeometryOk (arg1N s) (arg2N s) (arg3Low s) (arg3High s) = true)
    (hfirst : FirstUnset s.ga (arg3Low s * arg1N s) (arg3High s * arg2N s) r c) :
    exec .dmFrame s = .next (errState s .incomplete 0 (65536 * r + c)) := by
  obtain ⟨hrows, hcols⟩ : arg3Low s * arg1N s ≤ 256 ∧ arg3High s * arg2N s ≤ 256 := by
    obtain ⟨hrows, hcols⟩ := frameGeometryOk_le hgeometry
    rw [Nat.mul_add] at hrows hcols
    exact ⟨Nat.le_of_add_right_le hrows, Nat.le_of_add_right_le hcols⟩
  exact finish_of_error
    ((require_bind_passed hgeometry).trans (bind_of_error (readRows_of_firstUnset hcols hfirst) _))
    (by decide) (cellReport_of_firstUnset_lt hrows hcols hfirst)

theorem gridEmit_incomplete {s : State} {selA : Bool} {r c : Nat} (hr1 : 1 ≤ arg1N s) (hr : arg1N s ≤ 256)
    (hc1 : 1 ≤ arg2N s) (hc : arg2N s ≤ 256)
    (hfirst : FirstUnset (if selA then s.ga else s.gb) (arg1N s) (arg2N s) r c) :
    exec (.gridEmit selA) s = .next (errState s .incomplete 0 (65536 * r + c)) := by
  have hplan : gridEmitPlan selA s = .error (.error .incomplete 0 (65536 * r + c)) := by
    refine (require_bind_passed (inGrid_and_inGrid_iff.2 ⟨⟨hr1, hr⟩, hc1, hc⟩)).trans ?_
    cases selA with
    | true => exact bind_of_error (readRows_of_firstUnset hc hfirst) _
    | false => exact bind_of_error (readRows_of_firstUnset hc hfirst) _
  exact finish_of_error (bind_of_error hplan _) (by decide) (cellReport_of_firstUnset_lt hr hc hfirst)

/-- Settles O51: the region is read row by row, up to the cell. -/
theorem firstUnsetCellIsReported : Obligations.FirstUnsetCellIsReported := by
  intro s r c
  refine ⟨?_, fun _ => gridEmit_incomplete⟩
  rintro h w rv rh rfl rfl rfl rfl hh hw hh2 hw2 hrv hrh hrows hcols hfirst
  rw [← arg3Low_eq, ← arg3High_eq] at *
  exact dmFrame_incomplete (frameGeometryOk_of hh hw hh2 hw2 hrv hrh hrows hcols) hfirst

/-! ## TABLE of BAR_WALK: the first invalid entry (R153, R154) -/

/-- A valid entry has the element widths of its own fields. -/
theorem entryHolds_of_entryValid {t : Word} (h : entryValid t.toNat = true) : EntryHolds t (entryWidths t.toNat) := by
  simp only [entryValid, Bool.and_eq_true, decide_eq_true_eq, List.all_eq_true] at h
  obtain ⟨⟨h1, h7⟩, hwidths⟩ := h
  have hlen : (entryWidths t.toNat).length = entryCount t.toNat := by rw [entryWidths, List.length_map, List.length_range]
  refine ⟨hlen ▸ h1, hlen ▸ h7, hlen.symm, fun e he => ?_⟩
  have hwidth : (entryWidths t.toNat)[e] = t.toNat / 2 ^ (4 * e + 4) % 16 := by
    simp [entryWidths, entryWidth, Nat.shiftRight_eq_div_pow]
  rw [List.getElem?_eq_getElem he, hwidth]
  exact ⟨rfl, hwidth ▸ hwidths _ (List.getElem_mem he)⟩

theorem readBarEntry_of_invalid {s : State} {x : Nat} {t : Word} (hread : s.bt.read x = some t)
    (h : ∀ ws, ¬ EntryHolds t ws) : readBarEntry s x = .error (.error .table x t.toNat) := by
  rw [readBarEntry, (readEntry_eq_ok ..).2 hread, work_ok_bind]
  exact require_bind_failed fun hvalid => h _ (entryHolds_of_entryValid hvalid)

theorem readBarEntries_of_firstInvalid {s : State} {xs : List Nat} {k : Nat} {t : Word} (hk : k < xs.length)
    (hbefore : ∀ j, j < k → ∃ u ws, s.bt.read (xs.getD j 0) = some u ∧ EntryHolds u ws)
    (hread : s.bt.read (xs.getD k 0) = some t) (h : ∀ ws, ¬ EntryHolds t ws) :
    readBarEntries s xs = .error (.error .table (xs.getD k 0) t.toNat) := by
  rw [readBarEntries_eq_mapM]
  refine mapM_eq_error (k := k) (by simp [hk]) (fun j x hj hx => ?_) (readBarEntry_of_invalid hread h)
  obtain ⟨u, ws, hu, hholds⟩ := hbefore j hj
  rw [List.getD_eq_getElem?_getD, hx] at hu
  exact ⟨_, readBarEntry_of_entryHolds hu hholds⟩

/-- Settles O52: the indices are read, and then their entries up to the invalid one. -/
theorem firstInvalidBarEntryIsReported : Obligations.FirstInvalidBarEntryIsReported := by
  intro s black1 kind xs k t hkind hcw hlen hxs hk hbefore hread hinvalid
  have hlenN : lenN s ≤ Config.cwDepth := hcw.1.trans_le hlen
  have helements : readRanged s (Config.bartabDepth - 1) 0 (lenN s) = .ok xs :=
    readRanged_of_cwHolds hcw fun x hx => Nat.le_sub_one_of_lt (hxs x hx)
  have hindex : xs.getD k 0 < 256 := by simpa [hk] using hxs _ (List.getElem_mem hk)
  refine exec_barWalk_of_plan_error hkind ?_ (by omega) (word_toNat_lt t)
  rw [barWalkPlan, require_bind_passed (decide_eq_true hlenN), helements, work_ok_bind]
  exact bind_of_error (readBarEntries_of_firstInvalid hk hbefore hread hinvalid) _

/-! ## TABLE of PDF_ROWS: the first invalid pattern (R150) -/

theorem readPattern_of_invalid {s : State} {cl v : Nat} {p : BitVec 17} (hread : s.pt.read (cl * 1024 + v) = some p)
    (hv : v < 65536) (h : p.getLsbD 16 = false ∨ p.getLsbD 0 = true) :
    readPattern s cl v = .error (.error .table (65536 * cl + v) p.toNat) := by
  have hentry : readEntry .pt s.pt (ptIndex cl v) = .ok p := (readEntry_eq_ok ..).2 hread
  have hcheck : ¬ (p.toNat.testBit 16 && !p.toNat.testBit 0) = true := by
    change ¬ (p.getLsbD 16 && !p.getLsbD 0) = true
    rcases h with h | h <;> rw [h]
    · exact Bool.false_ne_true
    · rw [Bool.not_true, Bool.and_false]; exact Bool.false_ne_true
  rw [readPattern, hentry, work_ok_bind, report_eq hv]
  exact require_bind_failed hcheck

theorem readRowPatterns_of_firstInvalid {s : State} {xs : List Nat} {r c level y k v : Nat} {p : BitVec 17}
    (hlen : xs.length = r * c) (hy : y < r) (hk : (rowOfSymbol xs r c level y)[k]? = some v) (hv : v < 65536)
    (hbefore : ∀ y' k' v', (y' < y ∨ (y' = y ∧ k' < k)) → (rowOfSymbol xs r c level y')[k']? = some v' →
      ∃ q, s.pt.read ((y' % 3) * 1024 + v') = some q ∧ q.getLsbD 16 = true ∧ q.getLsbD 0 = false)
    (hread : s.pt.read ((y % 3) * 1024 + v) = some p) (hp : p.getLsbD 16 = false ∨ p.getLsbD 0 = true) :
    readRowPatterns s xs r c level 0 r = .error (.error .table (65536 * (y % 3) + v) p.toNat) := by
  have hvalid (y' k' v' : Nat) (hlt : y' < y ∨ (y' = y ∧ k' < k)) (hv' : (rowOfSymbol xs r c level y')[k']? = some v') :
      ∃ q, readPattern s (y' % Config.pdfClusters) v' = .ok q := by
    obtain ⟨q, hq, hfirst, hlast⟩ := hbefore y' k' v' hlt hv'
    exact ⟨_, readPattern_of_valid hq hfirst hlast⟩
  rw [readRowPatterns_eq_mapM]
  refine mapM_range_eq_error hy (fun y' hy' => ?_) ?_ <;> rw [readPatterns_eq_mapM]
  · rw [rowCodewords_eq hlen (hy'.trans hy)]
    refine mapM_ok fun w hw => ?_
    obtain ⟨k', hk', rfl⟩ := List.mem_iff_getElem.1 hw
    exact hvalid y' k' _ (.inl hy') (List.getElem?_eq_getElem hk')
  · rw [rowCodewords_eq hlen hy]
    exact mapM_eq_error hk (fun j w hj hw => hvalid y j w (.inr ⟨rfl, hj⟩) hw) (readPattern_of_invalid hread hv hp)

/-- Settles O53: the codewords are read, and then their patterns, row by row, up to the invalid one. -/
theorem firstInvalidPatternIsReported : Obligations.FirstInvalidPatternIsReported := by
  rintro s xs r c level y k v p hcw hxs rfl rfl rfl hr1 hr hc1 hc hlevel hlen hy hk hbefore hread hp
  have hv : v < 929 := by
    refine rowCodewords_lt hr hc hlevel hy hxs v ?_
    rw [rowCodewords_eq hlen hy]
    exact List.mem_of_getElem? hk
  have hdata : readRanged s (Config.pdfCwCount - 1) 0 (lenN s) = .ok xs := readRanged_of_cwHolds hcw hxs
  have hplan : pdfRowsPlan s = .error (.error .table (65536 * (y % 3) + v) p.toNat) := by
    rw [pdfRowsPlan_of hr1 hr hc1 hc hlevel (hcw.1.trans hlen), hdata, work_ok_bind]
    exact bind_of_error (readRowPatterns_of_firstInvalid hlen hy hk (by omega) hbefore hread hp) _
  exact finish_of_error (bind_of_error hplan _) (by omega) (p.isLt.trans (by decide))

end Sys2Proof.Proofs

end

section

/-! PROOF. Reset and initialisation (70_reset_and_hazards.md): the values a reset gives the registers, the RAM entries a soft
reset frees and keeps, and the two modes around the table build. -/

namespace Sys2Proof.Proofs

open Sys2Proof Sys2Proof.Machine Sys2Proof.Claims

/-! ## The registers after a reset -/

/-- The reset state has the values of R48; so has every state that takes its registers from it. -/
theorem registersReset_reset : RegistersReset State.reset :=
  ⟨rfl, rfl, rfl, rfl, rfl, rfl, rfl, rfl, rfl, rfl, rfl, rfl, rfl, rfl, rfl, rfl, rfl⟩

theorem irq_of_registersReset {t : State} (h : RegistersReset t) : irq t = false := by
  obtain ⟨hirqen, -⟩ := h
  simp only [irq, hirqen, Bool.false_and]

theorem entryOf_powerOn (s : State) (name : RamName) (idx : Nat) : entryOf (powerOn s) name idx = none := by
  cases name <;> rfl

theorem step_of_turns_powerOn {s : State} {rest : List Turn} (hturns : s.turns = .powerOn :: rest) :
    step s = .next (powerOn { s with turns := rest }) := by
  simp only [step, hturns]

/-- Settles O17: the step is the power-on reset, of which only the list of moves is not the reset state's. -/
theorem powerOnResetsEverything : Obligations.PowerOnResetsEverything := by
  intro s rest hturns
  have hregs : RegistersReset (powerOn { s with turns := rest }) := registersReset_reset
  exact ⟨_, step_of_turns_powerOn hturns, hregs, rfl, rfl, irq_of_registersReset hregs, rfl, entryOf_powerOn _⟩

/-! ## The entries that an output region's free values reach (R182) -/

/-- From `s` to `t` every entry of the region has got some value, and every other entry is as it was. -/
def FreesOnly (region : RamName → Nat → Prop) (s t : State) : Prop :=
  ∀ name idx, (¬ region name idx → entryOf t name idx = entryOf s name idx) ∧
    (region name idx → (entryOf t name idx).isSome = true)

theorem FreesOnly.congr {region region' : RamName → Nat → Prop} {s t : State} (h : FreesOnly region s t)
    (hiff : ∀ name idx, region name idx ↔ region' name idx) : FreesOnly region' s t := by
  intro name idx
  rw [← hiff]
  exact h name idx

theorem freesOnly_of_empty {region : RamName → Nat → Prop} (s : State) (hempty : ∀ name idx, ¬ region name idx) :
    FreesOnly region s s :=
  fun name idx => ⟨fun _ => rfl, fun hin => absurd hin (hempty name idx)⟩

/-- A change of one RAM, `m` to `n`: the region's entries have taken the values of `f`, and nothing else changes. -/
theorem freesOnly_of_read {α : Type} {ram : RamName} {region : Nat → Prop} [DecidablePred region] {s t : State}
    {m n : Ram α} {code : α → Nat} {f : Nat → α} (hs : entryOf s ram = fun idx => (m.read idx).map code)
    (ht : entryOf t ram = fun idx => (n.read idx).map code)
    (hread : ∀ idx, n.read idx = if region idx then some (f idx) else m.read idx)
    (hother : ∀ name, name ≠ ram → entryOf t name = entryOf s name) :
    FreesOnly (fun name idx => name = ram ∧ region idx) s t := by
  intro name idx
  by_cases hname : name = ram
  · subst hname
    by_cases hin : region idx <;> simp [hs, ht, hread, hin]
  · simp [hother name hname, hname]

/-! ### Ranges of CW and EV -/

/-- Reading after the entries `lo` to `hi − 1` have taken the values of `f`. -/
theorem read_writeBlock_range {α : Type} (m : Ram α) (lo hi : Nat) (f : Nat → α) (idx : Nat) :
    (m.writeBlock lo ((List.range (hi - lo)).map fun k => f (lo + k))).read idx =
      if lo ≤ idx ∧ idx < hi then some (f idx) else m.read idx := by
  rw [Ram.read_writeBlock, List.length_map, List.length_range]
  by_cases hin : lo ≤ idx ∧ idx < hi
  · have hlt : idx - lo < hi - lo := by omega
    rw [if_pos (by omega), if_pos hin, List.getElem?_map, List.getElem?_range hlt, Option.map_some,
      Nat.add_sub_cancel' hin.1]
  · rw [if_neg (by omega), if_neg hin]

theorem freesOnly_freeCwRange (s : State) (lo hi : Nat) :
    FreesOnly (fun name idx => name = .cw ∧ lo ≤ idx ∧ idx < hi) s (freeCwRange s lo hi) := by
  refine freesOnly_of_read rfl rfl (read_writeBlock_range s.cw lo hi _) fun name hne => ?_
  cases name with
  | cw => exact absurd rfl hne
  | _ => rfl

theorem freesOnly_freeEvRange (s : State) (lo hi : Nat) :
    FreesOnly (fun name idx => name = .ev ∧ lo ≤ idx ∧ idx < hi) s (freeEvRange s lo hi) := by
  refine freesOnly_of_read rfl rfl (read_writeBlock_range s.ev lo hi _) fun name hne => ?_
  cases name with
  | ev => exact absurd rfl hne
  | _ => rfl

/-! ### Rectangles of the grids -/

/-- Index `idx` of a grid's window is a cell of [0, rows) × [0, cols) (R51). -/
abbrev InRect (rows cols idx : Nat) : Prop := idx / 256 < rows ∧ idx % 256 < cols ∧ idx < 65536

/-- Reading, by a cell's index, after a rectangle clipped to the grid has taken the values of `f`. -/
theorem read_writeRect_clipped (m : Ram Cell) (rows cols : Nat) (f : Nat → Nat → Cell) (idx : Nat) :
    (m.writeRect (min rows Config.gridDim) (min cols Config.gridDim) f).read idx =
      if InRect rows cols idx then some (f (idx / 256) (idx % 256)) else m.read idx := by
  have hcol : idx % 256 < 256 := Nat.mod_lt _ (by decide)
  have hclip : (idx / 256 < min rows Config.gridDim ∧ idx % 256 < min cols Config.gridDim) ↔ InRect rows cols idx := by
    simp only [InRect, Config.gridDim]
    omega
  have hread := read_writeRect_cell m f (Nat.min_le_right cols 256) hcol (rows := min rows Config.gridDim) (r := idx / 256)
  rw [Nat.div_add_mod] at hread
  rw [hread]
  exact if_congr hclip rfl rfl

theorem freesOnly_freeGaRect (s : State) (rows cols : Nat) :
    FreesOnly (fun name idx => name = .ga ∧ InRect rows cols idx) s (freeGaRect s rows cols) := by
  refine freesOnly_of_read rfl rfl (read_writeRect_clipped s.ga rows cols _) fun name hne => ?_
  cases name with
  | ga => exact absurd rfl hne
  | _ => rfl

theorem freesOnly_freeGbRect (s : State) (rows cols : Nat) :
    FreesOnly (fun name idx => name = .gb ∧ InRect rows cols idx) s (freeGbRect s rows cols) := by
  refine freesOnly_of_read rfl rfl (read_writeRect_clipped s.gb rows cols _) fun name hne => ?_
  cases name with
  | gb => exact absurd rfl hne
  | _ => rfl

/-! ### The regions of the commands -/

/-- An emitting command's region is EV[e, min(e + T, EV_DEPTH)), empty where a check before T fails, and all of EV from e on
where T depends on an unwritten entry (log entry 9). -/
theorem freesOnly_freeEmitRegion (s : State) (plan : Work EventPlan) :
    FreesOnly (fun name idx => name = .ev ∧ InRegion.inPlan plan s.evWptr.toNat idx) s (freeEmitRegion s plan) := by
  cases plan with
  | ok plan =>
    refine (freesOnly_freeEvRange s _ _).congr fun name idx => and_congr_right fun _ => ?_
    simp only [InRegion.inPlan, lt_min_iff, Config.evDepth]
  | error halt =>
    cases halt with
    | error code r0 r1 => exact freesOnly_of_empty s fun _ _ h => h.2
    | fault f => exact freesOnly_freeEvRange s _ _

/-- The exponent's clip at 12 changes no region: 2^13 codewords are more than CW holds (R7, R122). -/
theorem lt_clippedEcc_iff (n level idx : Nat) :
    idx < min (n + 2 ^ (min level 12 + 1)) 4096 ↔ idx < n + 2 ^ (level + 1) ∧ idx < 4096 := by
  rw [lt_min_iff]
  refine and_congr_left fun hdepth => ?_
  rcases Nat.le_total level 12 with hlevel | hlevel
  · rw [Nat.min_eq_left hlevel]
  · have hpow : 2 ^ (12 + 1) ≤ 2 ^ (level + 1) := Nat.pow_le_pow_right (by decide) (by omega)
    rw [Nat.min_eq_right hlevel]
    omega

/-- A soft reset frees the output region of the command it abandons, and nothing else. -/
theorem freesOnly_freeRegion (i : Instr) (s : State) : FreesOnly (InRegion i s) s (freeRegion i s) := by
  cases i with
  | nop | ckMod10 _ | ckMod103 _ | ckMod6 _ | ckFcs _ => exact freesOnly_of_empty s fun name idx => by simp [InRegion]
  | rsEcc200 =>
    refine (freesOnly_freeCwRange s _ _).congr fun name idx => ?_
    cases name <;> simp [InRegion, lenN, arg1N]
  | pdfEcc =>
    refine (freesOnly_freeCwRange s _ _).congr fun name idx => ?_
    rw [lt_clippedEcc_iff]
    cases name <;> simp [InRegion, lenN, arg1N]
  | dmPlace =>
    refine (freesOnly_freeGaRect s _ _).congr fun name idx => ?_
    cases name <;> simp [InRegion, arg1N, arg2N]
  | dmFrame =>
    refine (freesOnly_freeGbRect s _ _).congr fun name idx => ?_
    rw [arg3Low_eq, arg3High_eq]
    cases name <;> simp [InRegion, arg1N, arg2N]
  | gridEmit _ | pdfRows | barWalk _ _ =>
    refine (freesOnly_freeEmitRegion s _).congr fun name idx => ?_
    cases name <;> simp [InRegion]

/-! ## The soft reset -/

/-- Entry `idx` of RAM `name` is in the output region of the command that a soft reset in state `s` abandons. -/
def Abandoned (s : State) (name : RamName) (idx : Nat) : Prop :=
  ∃ w i, s.engine = .busy w ∧ decode w = .ok i ∧ InRegion i s name idx

theorem abandoned_iff {s : State} {w : Word} {i : Instr} (hbusy : s.engine = .busy w) (hdecode : decode w = .ok i)
    (name : RamName) (idx : Nat) : Abandoned s name idx ↔ InRegion i s name idx := by
  simp [Abandoned, hbusy, hdecode]

/-- A draw of free values is counted outside the RAMs. -/
theorem entryOf_draws (s : State) (n : Nat) (name : RamName) : entryOf { s with draws := n } name = entryOf s name := by
  cases name <;> rfl

theorem abandon_of_command {s : State} {w : Word} {i : Instr} (hbusy : s.engine = .busy w) (hdecode : decode w = .ok i) :
    abandon s = { freeRegion i s with draws := s.draws + 1 } := by
  simp only [abandon, hbusy, hdecode]

/-- With no command running, in mode INIT or IDLE or with a word that is none, nothing is abandoned. -/
theorem abandon_of_no_command {s : State} (hnone : ¬ ∃ w i, s.engine = .busy w ∧ decode w = .ok i) : abandon s = s := by
  unfold abandon
  split
  · rfl
  · rfl
  · next w hbusy =>
    split
    · next i hdecode => exact absurd ⟨w, i, hbusy, hdecode⟩ hnone
    · rfl

theorem freesOnly_abandon (s : State) : FreesOnly (Abandoned s) s (abandon s) := by
  by_cases hrun : ∃ w i, s.engine = .busy w ∧ decode w = .ok i
  · obtain ⟨w, i, hbusy, hdecode⟩ := hrun
    intro name idx
    rw [abandoned_iff hbusy hdecode, abandon_of_command hbusy hdecode, entryOf_draws]
    exact freesOnly_freeRegion i s name idx
  · rw [abandon_of_no_command hrun]
    exact freesOnly_of_empty s fun _ _ ⟨w, i, hbusy, hdecode, _⟩ => hrun ⟨w, i, hbusy, hdecode⟩

theorem freesOnly_softReset (s : State) : FreesOnly (Abandoned s) s (softReset s) := by
  intro name idx
  have hentry : entryOf (softReset s) name = entryOf (abandon s) name := by cases name <;> rfl
  rw [hentry]
  exact freesOnly_abandon s name idx

/-- CTRL answers in every mode, and its bit 0 starts the soft reset (R20, R57 c, R182). -/
theorem portWrite_softReset (s : State) {wdata : Word} (hbit : wdata.getLsbD 0 = true) :
    portWrite s 0x00008#20 4 wdata = { softReset s with reply := .write .okay } := by
  have hwrite : writeTarget s wdata (.reg .ctrl) = softReset s := if_pos hbit
  rw [portWrite_of_names (t := .reg .ctrl) wdata (by decide) (.inr rfl), hwrite]

/-- Settles O18: the registers are the reset state's, and the RAMs are those that the abandoned command leaves. -/
theorem softResetKeepsRamsOutsideTheAbandonedRegion : Obligations.SoftResetKeepsRamsOutsideTheAbandonedRegion := by
  intro s wdata hbit
  have hregs : RegistersReset { softReset s with reply := .write .okay } := registersReset_reset
  have hentry (name : RamName) :
      entryOf { softReset s with reply := .write .okay } name = entryOf (softReset s) name := by cases name <;> rfl
  refine ⟨_, portWrite_softReset s hbit, rfl, hregs, rfl, rfl, irq_of_registersReset hregs, rfl,
    fun name idx hout => ?_, fun w i name idx hbusy hdecode hin => ?_⟩
  · rw [hentry]
    exact (freesOnly_softReset s name idx).1 fun ⟨w, i, hbusy, hdecode, hin⟩ => hout w i hbusy hdecode hin
  · rw [hentry]
    exact (freesOnly_softReset s name idx).2 ⟨w, i, hbusy, hdecode, hin⟩

/-! ## The initialisation -/

/-- Without flags, code and last opcode, STATUS shows READY and BUSY alone (R21). -/
theorem statusWord_of_quiet {s : State} (hdone : s.done = false) (herr : s.err = false) (hcode : s.errcode = .none)
    (hlastop : s.lastop = 0#8) :
    statusWord s = BitVec.ofNat 32 (2 * (busy s).toNat + (ready s).toNat) := by
  simp only [statusWord, hdone, herr, hcode, hlastop]
  cases busy s <;> cases ready s <;> rfl

/-- Settles O19: the invariant keeps the flags, the code and LASTOP at 0 in mode INIT, and the initialisation does too. -/
theorem initialisationMakesReady : Obligations.InitialisationMakesReady := by
  intro s w hs hinit
  have hne : s.engine ≠ .idle := by rw [hinit]; nofun
  obtain ⟨-, -, hquiet, -, hmode⟩ := hs
  obtain ⟨hdone, herr⟩ := hquiet hne
  obtain ⟨hlastop, hcode⟩ : s.lastop = 0#8 ∧ s.errcode = .none := by simpa only [lastopFollowsMode, hinit] using hmode
  refine ⟨?_, ?_, finishInit s, by simp only [engineStep, hinit], rfl, ?_⟩
  · rw [statusWord_of_quiet hdone herr hcode hlastop]
    simp only [busy, ready, hinit]
    rfl
  · obtain ⟨hrefused, -⟩ := slverrExactlyWhenRefused s 0x00010#20 4 w
    exact (hrefused (refused_cmd hne)).2
  · exact statusWord_of_quiet (s := finishInit s) hdone herr hcode hlastop

end Sys2Proof.Proofs

end
